-- ==== Sys2Proof/Word.lean ====
section
/-! DEFINITION. The word types of the hardware: the byte, which is the only unit of every space
(20_memory.md R31), and the level of a line (00_scope.md R8). -/

namespace Sys2Proof

/-- The 8-bit byte, bit 7 most significant (R8, R31). -/
abbrev Byte := BitVec 8

/-- A line level: `true` is high (1), `false` is low (0) (R8). -/
abbrev Level := Bool

end Sys2Proof
end

