-- ==== Sys2Proof/Config.lean ====
section
/-! DEFINITION. The configuration record of the block (00_scope.md R5), what the lines may answer
(60_exceptions.md R132), and the free values: levels and answers no source constrains. The operand widths
of R5 are the widths of the fields, here and in Syntax.lean; `DELAY_US` is derived (`delayUs`), never
stored. The reference values stand in Machine/Operands.lean. -/

namespace Sys2Proof

/-- The parameters of CORE, one field per row of the table of R5. A value the source fixes is carried with
the proof that the field holds it, so the record ranges over every block the spec allows and no other:
`MAX_FREQ_KHZ` any positive integer (R80, D19), `HAS_CHAR` either way, `LETTER_ROM` any table, `HEX_ROM`
any table with the source's three entries (log entry 19). -/
structure Config where
  /-- `MAX_FREQ_KHZ`, the fixed maximum clock frequency in kHz (R80). -/
  maxFreqKHz : Nat
  /-- `MAX_FREQ_KHZ = 0` is not a legal configuration (R80, D19). -/
  maxFreqLegal : 0 < maxFreqKHz
  /-- `ACK_POLLS`, the poll budget of an acknowledgement wait (R86). -/
  ackPolls : Nat
  ackPollsFixed : ackPolls = 255
  /-- `N_POS`, the positions `CLEAR` writes (R102, D7). -/
  nPos : Nat
  nPosFixed : nPos = 4
  /-- `OPC_DATA_AUTOINC` (R52). -/
  opcDataAutoinc : Byte
  opcDataAutoincFixed : opcDataAutoinc = 0x40#8
  /-- `OPC_ADDR` (R53). -/
  opcAddr : Byte
  opcAddrFixed : opcAddr = 0xC0#8
  /-- `OPC_BRIGHT_ON`, display-on included (R54, R55). -/
  opcBrightOn : Byte
  opcBrightOnFixed : opcBrightOn = 0x88#8
  /-- `ADDR_MASK` (R53). -/
  addrMask : Byte
  addrMaskFixed : addrMask = 0x0F#8
  /-- `LEVEL_MASK` (R54). -/
  levelMask : Byte
  levelMaskFixed : levelMask = 0x07#8
  /-- `NIBBLE_MASK` (R70). -/
  nibbleMask : Byte
  nibbleMaskFixed : nibbleMask = 0x0F#8
  /-- `HEX_ROM`, the one home of this ROM (R21, R71). -/
  hexRom : Vector Byte 16
  /-- The three entries the source gives (R71). -/
  hexRomFixed : hexRom[0] = 0x3F#8 ∧ hexRom[1] = 0x06#8 ∧ hexRom[15] = 0x71#8
  /-- `HAS_CHAR`: whether the letter ROM, `CHARACTER` and `WRITE_CHARS` exist (R77). -/
  hasChar : Bool
  /-- `LETTER_ROM`, the one home of this ROM (R21, R75); nothing reads it when `HAS_CHAR` is false. -/
  letterRom : Vector Byte 26
  /-- `BLANK`, all segments off (R73). -/
  blank : Byte
  blankFixed : blank = 0x00#8
deriving DecidableEq, Repr

/-- The opaque failure value a pin reports with a failed access (R122). CORE never interprets it; the
spec leaves its type a parameter (D17) and the model codes it as a natural number (log entry 13,
DESIGN CHOICE). -/
abbrev Info := Nat

/-- What LINES answers to one access of a pin (R9, R132): completed, with the level a read returns
(a drive ignores it), or failed with the pin's failure value. -/
inductive Answer where
  | done (level : Level)
  | failed (info : Info)
deriving DecidableEq, Repr, Inhabited

/-- FREE VALUE. The answer to access number `n` when no answer for it stands in `State.answers`:
whether the access completes, the level a read returns and the failure value are the environment's
choice per access (10_state.md R13, D16, D17, U6, U10; log entry 3). It has no body. -/
opaque Config.freeAnswer : Nat → Answer

/-- FREE VALUE. The level of a line after drive number `n` of the run failed: no source states it
(41_transport.md R89, U5; log entry 8). It has no body. -/
opaque Config.freeLevel : Nat → Level

end Sys2Proof
end

