-- ==== Sys2Proof/Syntax.lean ====
section
/-! DEFINITION. The instructions: one constructor per row of spec/opcode_table.json, and the words
they are read from. The table has five code spaces (wire bytes, request codes, transport selects,
encoder selects, and `BIT_DELAY` which has no code): 30_encoding.md R50, R60, R61. -/

namespace Sys2Proof

/-- The operands every request record carries beside its code: `(op, addr, level, payload)` (R60).
An operation ignores those it does not use (R20, R62). -/
structure Request where
  /-- `addr`, 8 bits. -/
  addr : Byte
  /-- `level`, 8 bits. -/
  level : Byte
  /-- `payload`, the finite single-pass sequence of 8-bit elements. -/
  payload : List Byte
deriving DecidableEq, Repr

/-- What HOST presents to CORE: the record `(op, addr, level, payload)` of R60. -/
structure HostRequest where
  /-- `op`, 3 bits, which selects the operation. -/
  op : BitVec 3
  operands : Request
deriving DecidableEq, Repr

/-- One constructor per row of the opcode table. -/
inductive Instr where
  /-- `CMD_DATA_AUTOINC`, the command byte 0x40 on the wire (R52). -/
  | cmdDataAutoinc
  /-- `CMD_ADDR`, the command byte `1100aaaa` on the wire (R53). -/
  | cmdAddr (a : BitVec 4)
  /-- `CMD_BRIGHT_ON`, the command byte `10001lll` on the wire (R54). -/
  | cmdBrightOn (l : BitVec 3)
  /-- `DATA`, any byte after the first of a transaction (R56, R51). -/
  | data (d : Byte)
  /-- `INIT`, request code 0 (R101). -/
  | init (r : Request)
  /-- `CLEAR`, request code 1 (R102). -/
  | clear (r : Request)
  /-- `WRITE_RAW`, request code 2 (R103). -/
  | writeRaw (r : Request)
  /-- `WRITE_HEX`, request code 3 (R104). -/
  | writeHex (r : Request)
  /-- `WRITE_CHARS`, request code 4 (R105). -/
  | writeChars (r : Request)
  /-- `SET_BRIGHTNESS`, request code 5 (R106). -/
  | setBrightness (r : Request)
  /-- Request code 6, which selects no operation (R62). -/
  | reservedOp6 (r : Request)
  /-- Request code 7, which selects no operation (R62). -/
  | reservedOp7 (r : Request)
  /-- `START`, transport select 0 (R82). -/
  | start
  /-- `SEND_BIT`, transport select 1 with a 1-bit operand (R81). -/
  | sendBit (b : Level)
  /-- `SEND_BYTE`, transport select 2 with an 8-bit operand (R87). -/
  | sendByte (v : Byte)
  /-- `STOP`, transport select 3 (R84). -/
  | stop
  /-- `HEXDIGIT`, encoder select 0 (R70). -/
  | hexDigit (n : Byte)
  /-- `CHARACTER`, encoder select 1 (R74). -/
  | character (c : Byte)
  /-- `BIT_DELAY`, evaluated from `MAX_FREQ_KHZ`; it has no code (R80, R61). -/
  | bitDelay
deriving DecidableEq, Repr

/-- The code spaces. Which one a word belongs to is said by where it stands (R51: by position in the
transaction; R61: inside CORE, by the layer that is called), never by its bits. -/
inductive Space where
  /-- The first byte of a transaction on the wire (R51). -/
  | command
  /-- Any later byte of a transaction on the wire (R51). -/
  | data
  /-- A request record from HOST (R60). -/
  | request
  /-- A call of CMD to XPORT, selected by `uop` (R61). -/
  | transport
  /-- A call of CMD to ENC, selected by `sel` (R61). -/
  | encoder
  /-- The build-time evaluation of `BIT_DELAY`, which has no code (R61). -/
  | build
deriving DecidableEq, Repr

/-- One word handed to the machine: the space it belongs to and its bytes, the first at the lowest
place. The packing into bytes is the model's (log entry 1, DESIGN CHOICE). -/
structure Call where
  space : Space
  bytes : List Byte
deriving DecidableEq, Repr

end Sys2Proof
end

