-- ==== Sys2Proof/WellFormed.lean ====
section
/-! DEFINITION. The one check an instruction must pass on a given build: `WRITE_CHARS` and
`CHARACTER` exist only when `HAS_CHAR` is true (40_encoder.md R77, 30_encoding.md R62). Every other
operand is legal at every value (20_memory.md R34: reduced, never rejected). -/

namespace Sys2Proof

/-- Whether the block built with `hasChar` has this instruction. -/
def WellFormed (hasChar : Bool) : Instr → Bool
  | .cmdDataAutoinc => true
  | .cmdAddr _ => true
  | .cmdBrightOn _ => true
  | .data _ => true
  | .init _ => true
  | .clear _ => true
  | .writeRaw _ => true
  | .writeHex _ => true
  | .writeChars _ => hasChar
  | .setBrightness _ => true
  | .reservedOp6 _ => true
  | .reservedOp7 _ => true
  | .start => true
  | .sendBit _ => true
  | .sendByte _ => true
  | .stop => true
  | .hexDigit _ => true
  | .character _ => hasChar
  | .bitDelay => true

end Sys2Proof
end

