-- ==== Sys2Proof/Decode.lean ====
section
/-! DEFINITION. The decoder, total on any bytes of any space and rejecting by name, and the encoder
written from the same tables (30_encoding.md R50, R60, R61). -/

namespace Sys2Proof

/-- Why bytes are no instruction of their space. -/
inductive DecodeError where
  /-- A first byte of a transaction that is none of the three command formats (R62: CORE never emits
  one). -/
  | notACommandByte
  /-- A select with bits above its width: `op` has 3 bits, `uop` 2, `sel` 1 (R60, R61). -/
  | selectTooWide
  /-- An operand with bits above its width: the 1-bit operand of `SEND_BIT`, or the empty operand of
  `START` and `STOP` (R61). -/
  | operandTooWide
  /-- Fewer or more bytes than the space's words have (log entry 1). -/
  | wrongLength
deriving DecidableEq, Repr

/-- The outcome of decoding: an instruction, or the reason there is none. -/
inductive Decoded where
  | instr (i : Instr)
  | rejected (e : DecodeError)
deriving DecidableEq, Repr

/-- The first byte of a transaction: format W-FIXED, W-ADDR or W-DISP by match and mask (R50, R52 to
R54). -/
def decodeCommand (b : Byte) : Decoded :=
  if b = 0x40#8 then .instr .cmdDataAutoinc
  else if b &&& 0xF0#8 = 0xC0#8 then .instr (.cmdAddr (b.setWidth 4))
  else if b &&& 0xF8#8 = 0x88#8 then .instr (.cmdBrightOn (b.setWidth 3))
  else .rejected .notACommandByte

/-- A request by its code (R60); the code stands in bits 2 to 0 of its byte. -/
def decodeRequest (op : Byte) (r : Request) : Decoded :=
  if op = 0#8 then .instr (.init r)
  else if op = 1#8 then .instr (.clear r)
  else if op = 2#8 then .instr (.writeRaw r)
  else if op = 3#8 then .instr (.writeHex r)
  else if op = 4#8 then .instr (.writeChars r)
  else if op = 5#8 then .instr (.setBrightness r)
  else if op = 6#8 then .instr (.reservedOp6 r)
  else if op = 7#8 then .instr (.reservedOp7 r)
  else .rejected .selectTooWide

/-- A call of XPORT by its select `uop` (R61) and its operand byte. -/
def decodeTransport (uop operand : Byte) : Decoded :=
  if uop = 0#8 then (if operand = 0#8 then .instr .start else .rejected .operandTooWide)
  else if uop = 1#8 then
    (if operand = 0#8 then .instr (.sendBit false)
     else if operand = 1#8 then .instr (.sendBit true)
     else .rejected .operandTooWide)
  else if uop = 2#8 then .instr (.sendByte operand)
  else if uop = 3#8 then (if operand = 0#8 then .instr .stop else .rejected .operandTooWide)
  else .rejected .selectTooWide

/-- A call of ENC by its select `sel` (R61) and its operand byte. -/
def decodeEncoder (sel operand : Byte) : Decoded :=
  if sel = 0#8 then .instr (.hexDigit operand)
  else if sel = 1#8 then .instr (.character operand)
  else .rejected .selectTooWide

/-- The instruction a call's bytes stand for. A request record is its code, `addr`, `level` and then
the payload; a transport or encoder call is its select and one operand byte; a wire byte is itself. -/
def decode (c : Call) : Decoded :=
  match c.space, c.bytes with
  | .command, [b] => decodeCommand b
  | .data, [b] => .instr (.data b)
  | .request, op :: addr :: level :: payload =>
      decodeRequest op { addr := addr, level := level, payload := payload }
  | .transport, [uop, operand] => decodeTransport uop operand
  | .encoder, [sel, operand] => decodeEncoder sel operand
  | .build, [] => .instr .bitDelay
  | _, _ => .rejected .wrongLength

/-- The bytes of a request record with code `op` (R60). -/
def encodeRequest (op : Byte) (r : Request) : Call :=
  { space := .request, bytes := op :: r.addr :: r.level :: r.payload }

/-- The word of every instruction, from the encodings of R50, R60 and R61. -/
def encode : Instr → Call
  | .cmdDataAutoinc => { space := .command, bytes := [0x40#8] }
  | .cmdAddr a => { space := .command, bytes := [0xC#4 ++ a] }
  | .cmdBrightOn l => { space := .command, bytes := [0b10001#5 ++ l] }
  | .data d => { space := .data, bytes := [d] }
  | .init r => encodeRequest 0#8 r
  | .clear r => encodeRequest 1#8 r
  | .writeRaw r => encodeRequest 2#8 r
  | .writeHex r => encodeRequest 3#8 r
  | .writeChars r => encodeRequest 4#8 r
  | .setBrightness r => encodeRequest 5#8 r
  | .reservedOp6 r => encodeRequest 6#8 r
  | .reservedOp7 r => encodeRequest 7#8 r
  | .start => { space := .transport, bytes := [0#8, 0#8] }
  | .sendBit b => { space := .transport, bytes := [1#8, if b then 1#8 else 0#8] }
  | .sendByte v => { space := .transport, bytes := [2#8, v] }
  | .stop => { space := .transport, bytes := [3#8, 0#8] }
  | .hexDigit n => { space := .encoder, bytes := [0#8, n] }
  | .character c => { space := .encoder, bytes := [1#8, c] }
  | .bitDelay => { space := .build, bytes := [] }

/-- The call a word of the opcode table stands for, its operand bytes zero. The table's rows of 1, 2
and 3 bits are the encoder, transport and request selects and its row of 0 bits is `BIT_DELAY`; among
its 8-bit words the values 0 to 7 are taken as request codes, the command formats as first bytes of a
transaction, and every other value as a data byte (log entry 22: the table puts several code spaces on
the same words). -/
def tableCall (nbits w : Nat) : Call :=
  let b : Byte := BitVec.ofNat 8 w
  match nbits with
  | 0 => { space := .build, bytes := [] }
  | 1 => { space := .encoder, bytes := [b, 0#8] }
  | 2 => { space := .transport, bytes := [b, 0#8] }
  | 3 => { space := .request, bytes := [b, 0#8, 0#8] }
  | _ =>
    if w < 8 then { space := .request, bytes := [b, 0#8, 0#8] }
    else match decodeCommand b with
      | .instr _ => { space := .command, bytes := [b] }
      | .rejected _ => { space := .data, bytes := [b] }

/-- The instruction the decoder reads from a word of the opcode table, its operand bytes zero. -/
def decodeTableWord (nbits w : Nat) : Option Instr :=
  match decode (tableCall nbits w) with
  | .instr i => some i
  | .rejected _ => none

end Sys2Proof
end

