-- ==== Sys2Proof/Machine/Operands.lean ====
section
/-! DEFINITION. The two default ROM tables (40_encoder.md R71, R75) and the reference configuration
(00_scope.md R5), the assembly of command bytes (30_encoding.md R52 to R54, R57), the two encoder look-ups
(R70, R74) and the bit period (R80), each read from the configuration record. Nothing here reads or writes
the state. -/

namespace Sys2Proof.Machine

/-- The default `HEX_ROM` of R71: entries 0, 1 and 15 are the source's, the others PRESUMED
(G1, D5; log entry 6). -/
def hexRomDefault : Vector Byte 16 :=
  #v[0x3F#8, 0x06#8, 0x5B#8, 0x4F#8, 0x66#8, 0x6D#8, 0x7D#8, 0x07#8,
     0x7F#8, 0x6F#8, 0x77#8, 0x7C#8, 0x39#8, 0x5E#8, 0x79#8, 0x71#8]

/-- The default `LETTER_ROM` of R75, letters A to Z: PRESUMED (G4, D6; log entry 7). -/
def letterRomDefault : Vector Byte 26 :=
  #v[0x77#8, 0x7C#8, 0x39#8, 0x5E#8, 0x79#8, 0x71#8, 0x3D#8, 0x76#8, 0x30#8, 0x1E#8, 0x00#8, 0x38#8, 0x00#8,
     0x54#8, 0x5C#8, 0x73#8, 0x67#8, 0x50#8, 0x6D#8, 0x78#8, 0x3E#8, 0x00#8, 0x00#8, 0x00#8, 0x6E#8, 0x5B#8]

/-- The reference configuration: every parameter at the value of the table of R5. -/
def referenceConfig : Config where
  maxFreqKHz := 500
  maxFreqLegal := by decide
  ackPolls := 255
  ackPollsFixed := rfl
  nPos := 4
  nPosFixed := rfl
  opcDataAutoinc := 0x40#8
  opcDataAutoincFixed := rfl
  opcAddr := 0xC0#8
  opcAddrFixed := rfl
  opcBrightOn := 0x88#8
  opcBrightOnFixed := rfl
  addrMask := 0x0F#8
  addrMaskFixed := rfl
  levelMask := 0x07#8
  levelMaskFixed := rfl
  nibbleMask := 0x0F#8
  nibbleMaskFixed := rfl
  hexRom := hexRomDefault
  hexRomFixed := by decide
  hasChar := true
  letterRom := letterRomDefault
  blank := 0x00#8
  blankFixed := rfl

/-- Building the block with the parameters a user may choose, the others at their reference values:
refused (`none`) for `MAX_FREQ_KHZ = 0` (R80, D19). -/
def buildConfig (maxFreqKHz : Nat) (hasChar : Bool) (letterRom : Vector Byte 26) : Option Config :=
  if h : 0 < maxFreqKHz then
    some { referenceConfig with
      maxFreqKHz := maxFreqKHz, maxFreqLegal := h, hasChar := hasChar, letterRom := letterRom }
  else none

/-- `BIT_DELAY`: `ceil(1000 / (2 * MAX_FREQ_KHZ))` as R80 computes it over the positive integers; the
value of `DELAY_US`, derived at every use and never stored. -/
def delayUs (c : Config) : Nat := (1000 + 2 * c.maxFreqKHz - 1) / (2 * c.maxFreqKHz)

/-- `byte <- OPC | (v & MASK)`: mask first, OR second (R57). -/
def assemble (opc mask v : Byte) : Byte := opc ||| (v &&& mask)

/-- `CMD_ADDR(addr)` (R53). -/
def cmdAddrByte (c : Config) (addr : Byte) : Byte := assemble c.opcAddr c.addrMask addr

/-- `CMD_BRIGHT_ON(level)` (R54). -/
def cmdBrightByte (c : Config) (level : Byte) : Byte := assemble c.opcBrightOn c.levelMask level

/-- `HEXDIGIT(n)`: the ROM entry at the low four bits of `n` (R70). The index is read as a 4-bit
number, so it never leaves the table. -/
def hexPattern (c : Config) (n : Byte) : Byte :=
  c.hexRom.get ((n &&& c.nibbleMask).setWidth 4).toFin

/-- The entry of letter number `k`; the caller has checked `k < 26` (R74). -/
def letterEntry (c : Config) (k : Nat) : Byte := c.letterRom.toList.getD k c.blank

/-- `CHARACTER(v)`: the letter's entry, either case, and `BLANK` for every other code (R74). -/
def charPattern (c : Config) (v : Byte) : Byte :=
  if 0x41 ≤ v.toNat ∧ v.toNat ≤ 0x5A then letterEntry c (v.toNat - 0x41)
  else if 0x61 ≤ v.toNat ∧ v.toNat ≤ 0x7A then letterEntry c (v.toNat - 0x61)
  else c.blank

end Sys2Proof.Machine
end

