-- ==== Sys2Proof/Machine/State.lean ====
section
/-! DEFINITION. The state of CORE (10_state.md R10), of the environment it meets (00_scope.md R6) and of
the observation (R7), all plain data, and the state after reset (R25, R140). -/

namespace Sys2Proof.Machine

/-- `PHASE`, the sequencer phase (R14). -/
inductive Phase where
  | idle
  | start
  | transfer
  | stop
deriving DecidableEq, Repr

/-- The two error kinds (R120, R121); a line fault carries the pin's opaque failure value (R122). -/
inductive Err where
  | ackTimeout
  | lineFault (info : Info)
deriving DecidableEq, Repr

/-- The values of `RESULT` (R19, R121). -/
inductive Result where
  | ok
  | ackTimeout
  | lineFault (info : Info)
deriving DecidableEq, Repr

/-- An access of a pin: a drive of CLK, a drive of DIO or a read of DIO (R9, R132). -/
inductive Access where
  | clk (b : Level)
  | dio (b : Level)
  | read
deriving DecidableEq, Repr

/-- The events of R7, and the attempted access that LINES failed, which is the last event of its
operation (95_test_vectors.md section 0; log entry 15). -/
inductive Event where
  | clkSet (b : Level)
  | dioSet (b : Level)
  | dioRead (r : Level)
  | delay (us : Nat)
  | failed (a : Access)
deriving DecidableEq, Repr

/-- What an instruction returned to its caller: the model's own return path (log entry 12). -/
inductive Reply where
  /-- Nothing has been returned since reset. -/
  | nothing
  /-- `return OK` (R9). -/
  | ok
  /-- A pattern of ENC (R70, R74). -/
  | pattern (b : Byte)
  /-- The bit period in microseconds (R80). -/
  | micros (n : Nat)
  /-- `raise` (R9): the error of a primitive, or the error result of an operation (R124(f)). -/
  | raised (e : Err)
  /-- The request was not accepted (R26, R62). -/
  | notAccepted
deriving DecidableEq, Repr

/-- How a payload element becomes a data byte: unchanged, through `HEXDIGIT`, or through `CHARACTER`
(R103 to R105). -/
inductive Translate where
  | raw
  | hex
  | char
deriving DecidableEq, Repr

/-- The micro-operations of the event-grain machine: each is one line of the spec's pseudocode and
performs at most one event (R38, D23; log entry 2). -/
inductive Micro where
  /-- `PHASE <- p` (R100). -/
  | phase (p : Phase)
  /-- `ClkSet(b)`. -/
  | clk (b : Level)
  /-- `DioSet(b)`. -/
  | dio (b : Level)
  /-- `DioSet(SHREG[0])` (R87). -/
  | dioShreg
  /-- `Delay(DELAY_US)`. -/
  | wait
  /-- `SHREG <- v; BIT_CNT <- 0` (R87). -/
  | load (v : Byte)
  /-- `SHREG <- SHREG >> 1; BIT_CNT <- BIT_CNT + 1` (R87). -/
  | shift
  /-- `POLL_CNT <- 0` (R87). -/
  | pollReset
  /-- The head of the poll loop: raise when the budget is used, else `DioRead()` (R86, R87). -/
  | poll
  /-- `POLL_CNT <- POLL_CNT + 1` (R87). -/
  | pollBump
  /-- `BYTE_CNT <- 1`, after the command byte (R100). -/
  | firstByte
  /-- `BYTE_CNT <- BYTE_CNT + 1`, after a data byte (R100). -/
  | nextByte
  /-- The head of the payload loop: `e <- next()` (R100, R107). -/
  | elem (t : Translate)
  /-- `PHASE <- Idle; RESULT <- OK` (R100). -/
  | finish
deriving DecidableEq, Repr

/-- Why the machine stops. The two errors of the spec are results and not faults (R120, R124). -/
inductive Fault where
  /-- Raised by `step` alone, when the bytes of a placed call are no word of their space
  (`DecodeError`). No such word can be put on CORE's interface, whose selects have exactly their
  widths (R60, R61); the packing into bytes is the model's (log entry 1). Safe: the machine stops. -/
  | malformedCall
deriving DecidableEq, Repr

/-- Why an instruction has no meaning. -/
inductive Refusal where
  /-- Raised by an arm of `exec` whose instruction has no meaning in the model; no arm does. Safe. -/
  | notModelled (mnemonic : String)
  /-- Raised by `CHARACTER` on a block built without the letter table, where "`LETTER_ROM` and
  `CHARACTER` do not exist" (R77). Safe: the machine stops. -/
  | noLetterTable
deriving DecidableEq, Repr

/-- The state. INVENTORY.md lists each field with its rule and reset value. -/
structure State where
  /-- The configuration record (R5), which holds the two constant ROMs `HEX_ROM` and `LETTER_ROM` (R10(e),
  R21). -/
  cfg : Config
  /-- `CLK_O` (R11). -/
  clkO : Level
  /-- `CLK_O` holds a known value (R25, R89). -/
  clkKnown : Bool
  /-- `DIO_O` (R12). -/
  dioO : Level
  /-- `DIO_O` holds a known value (R25, R89). -/
  dioKnown : Bool
  /-- `PHASE` (R14). -/
  phase : Phase
  /-- `OP` (R20). -/
  op : BitVec 3
  /-- `ADDR` (R20). -/
  addr : Byte
  /-- `LEVEL` (R20). -/
  level : Byte
  /-- `BYTE_CNT` (R15). -/
  byteCnt : Nat
  /-- `SHREG` (R16). -/
  shreg : Byte
  /-- `BIT_CNT` (R17). -/
  bitCnt : BitVec 4
  /-- `POLL_CNT` (R18). -/
  pollCnt : BitVec 8
  /-- `RESULT` (R19). -/
  result : Result
  /-- `RESULT` holds a value: an operation has completed since reset (R25). -/
  resultKnown : Bool
  /-- What the last instruction returned (the model's own; log entry 12). -/
  reply : Reply
  /-- What is left of the operation in progress (the model's own; log entry 2). -/
  todo : List Micro
  /-- The requests HOST will present, in order (R6, R155; log entry 17). -/
  requests : List HostRequest
  /-- Instructions placed to be run whole, one a step (the model's own port; log entries 2 and 17). -/
  calls : List Call
  /-- The payload elements not yet taken (R26(b)). -/
  payload : List Byte
  /-- How many payload elements the operation took (R7(b), R107). -/
  taken : Nat
  /-- What LINES answers to the next accesses (R13, R122; log entry 3). -/
  answers : List Answer
  /-- How many accesses of a pin the run has made: the argument of the free values (the model's own;
  log entry 3). -/
  accesses : Nat
  /-- The events so far, oldest first (R7, R38). -/
  events : List Event
deriving DecidableEq, Repr

/-- Construction, which is reset (R25, R140): Idle, no event, no delay, no line driven; the ROMs hold
their contents. The latches, `RESULT` and the working registers hold no value in the spec; the model
names one for each (log entries 4 and 5, DESIGN CHOICE) and marks the latches and `RESULT` as not
known. -/
def State.construct (cfg : Config) : State where
  cfg := cfg
  clkO := false
  clkKnown := false
  dioO := false
  dioKnown := false
  phase := .idle
  op := 0#3
  addr := 0#8
  level := 0#8
  byteCnt := 0
  shreg := 0#8
  bitCnt := 0#4
  pollCnt := 0#8
  result := .ok
  resultKnown := false
  reply := .nothing
  todo := []
  requests := []
  calls := []
  payload := []
  taken := 0
  answers := []
  accesses := 0
  events := []

/-- The machine right after reset, in the reference configuration with the spec's default tables. -/
def State.reset : State := State.construct referenceConfig

end Sys2Proof.Machine
end

