-- ==== Sys2Proof/Machine/Ops.lean ====
section
/-! DEFINITION. The named operations over the state: the register transfers, the four primitives of
00_scope.md R9 (`ClkSet`, `DioSet`, `DioRead`, `Delay`), the payload primitive, and the abort, which
takes the place of taking an exception (60_exceptions.md R124). There is no return from an error
(R127). -/

namespace Sys2Proof.Machine

/-- How a primitive ends: with its value, or by raising an error (R9, R81 to R87). -/
inductive Flow (α : Type) where
  | done (a : α) (s : State)
  | raised (e : Err) (s : State)
deriving DecidableEq, Repr

/-- Sequencing: "a call that raises propagates the raise" (R9). -/
def Flow.bind {α β : Type} (x : Flow α) (f : α → State → Flow β) : Flow β :=
  match x with
  | .done a s => f a s
  | .raised e s => .raised e s

/-! Register transfers. -/

/-- An event is appended to the history (R38). -/
def State.record (s : State) (e : Event) : State := { s with events := s.events ++ [e] }

/-- One answer of LINES has been used. -/
def State.tookAnswer (s : State) : State :=
  { s with answers := s.answers.tail, accesses := s.accesses + 1 }

/-- `CLK_O` after a drive of CLK: known after a completed one (R11), not after a failed one (R89). -/
def State.setClk (s : State) (b : Level) (known : Bool) : State :=
  { s with clkO := b, clkKnown := known }

/-- `DIO_O` after a drive of DIO: known after a completed one (R12), not after a failed one (R89). -/
def State.setDio (s : State) (b : Level) (known : Bool) : State :=
  { s with dioO := b, dioKnown := known }

/-- `PHASE <- p` (R14, R100). -/
def State.setPhase (s : State) (p : Phase) : State := { s with phase := p }

/-- `BYTE_CNT <- n` (R15, R100). -/
def State.setByteCnt (s : State) (n : Nat) : State := { s with byteCnt := n }

/-- `SHREG <- v; BIT_CNT <- 0` (R16, R17, R87). -/
def State.loadByte (s : State) (v : Byte) : State := { s with shreg := v, bitCnt := 0#4 }

/-- `SHREG <- SHREG >> 1; BIT_CNT <- BIT_CNT + 1` (R16, R17, R87). -/
def State.shiftByte (s : State) : State := { s with shreg := s.shreg >>> 1, bitCnt := s.bitCnt + 1#4 }

/-- `POLL_CNT <- n` (R18, R87). -/
def State.setPollCnt (s : State) (n : BitVec 8) : State := { s with pollCnt := n }

/-- The value given back to the caller (log entry 12). -/
def State.setReply (s : State) (r : Reply) : State := { s with reply := r }

/-- What is left of the operation in progress (log entry 2). -/
def State.setTodo (s : State) (ms : List Micro) : State := { s with todo := ms }

/-- The requests HOST has still to present. -/
def State.setRequests (s : State) (qs : List HostRequest) : State := { s with requests := qs }

/-- The instructions still placed to be run whole (log entry 17). -/
def State.setCalls (s : State) (cs : List Call) : State := { s with calls := cs }

/-- `NextElem() = some v`: the element is consumed and counted; `rest` is what is left (R9, R107). -/
def State.takeElem (s : State) (rest : List Byte) : State :=
  { s with payload := rest, taken := s.taken + 1 }

/-! Request acceptance, completion, abort. -/

/-- Acceptance of a request: `OP`, `ADDR` and `LEVEL` are loaded and the payload is HOST's sequence,
none of it taken (R20, R26). -/
def State.accept (s : State) (op : BitVec 3) (r : Request) : State :=
  { s with op := op, addr := r.addr, level := r.level, payload := r.payload, taken := 0 }

/-- A request that is not accepted has no effect; HOST is told so (R26, R62, R144). -/
def State.turnAway (s : State) : State := s.setReply .notAccepted

/-- The end of an operation in success: `PHASE <- Idle; RESULT <- OK` and the report to HOST (R100,
R26(c)). -/
def State.complete (s : State) : State :=
  { s with phase := .idle, result := .ok, resultKnown := true, reply := .ok }

/-- The value `RESULT` takes for an error (R121, R122). -/
def Err.toResult : Err → Result
  | .ackTimeout => .ackTimeout
  | .lineFault info => .lineFault info

/-- ABORT, the trap-entry analogue (R124): no further event and no stop condition, nothing that was
left of the operation runs, `RESULT <- ` the error, `PHASE <- Idle`, HOST receives it. Nothing is
saved and no line is touched. -/
def State.abort (s : State) (e : Err) : State :=
  { s with todo := [], phase := .idle, result := e.toResult, resultKnown := true, reply := .raised e }

/-- A raise that reaches the end of an instruction: it ends the operation in progress (R9, R124), and
where no operation is in progress it is returned to the caller of the primitive, `RESULT` not being
written (R19, R87; log entry 10). -/
def State.raise (s : State) (e : Err) : State :=
  match s.phase with
  | .idle => s.setReply (.raised e)
  | .start => s.abort e
  | .transfer => s.abort e
  | .stop => s.abort e

/-! The line and delay primitives: each is one event (R9, R38). -/

/-- What LINES answers to the next access: the environment's choice (R13, R122). -/
def State.nextAnswer (s : State) : Answer :=
  match s.answers with
  | a :: _ => a
  | [] => Config.freeAnswer s.accesses

/-- `ClkSet(b)`: drive CLK, or `raise LineFault(info)`; the latch then holds no known value (R11, R89,
R122). -/
def clkSet (b : Level) (s : State) : Flow Unit :=
  match s.nextAnswer with
  | .done _ => .done () ((s.tookAnswer.setClk b true).record (.clkSet b))
  | .failed info =>
    .raised (.lineFault info)
      ((s.tookAnswer.setClk (Config.freeLevel s.accesses) false).record (.failed (.clk b)))

/-- `DioSet(b)`: drive DIO (driving high is also its release), or `raise LineFault(info)` (R12, R89,
R122). -/
def dioSet (b : Level) (s : State) : Flow Unit :=
  match s.nextAnswer with
  | .done _ => .done () ((s.tookAnswer.setDio b true).record (.dioSet b))
  | .failed info =>
    .raised (.lineFault info)
      ((s.tookAnswer.setDio (Config.freeLevel s.accesses) false).record (.failed (.dio b)))

/-- `DioRead()`: the level is LINES' and not a function of `DIO_O` (R13); a failed read raises
LineFault (R86, R122). -/
def dioRead (s : State) : Flow Level :=
  match s.nextAnswer with
  | .done r => .done r (s.tookAnswer.record (.dioRead r))
  | .failed info => .raised (.lineFault info) (s.tookAnswer.record (.failed .read))

/-- `Delay(DELAY_US)`, the only delay CORE requests; it never fails (R80, R131). -/
def delay (s : State) : State := s.record (.delay (delayUs s.cfg))

/-- How an element becomes a data byte at the moment it is taken (R42, R103 to R105). -/
def translate (t : Translate) (s : State) (e : Byte) : Byte :=
  match t with
  | .raw => e
  | .hex => hexPattern s.cfg e
  | .char => charPattern s.cfg e

/-- The end of an instruction that is a primitive or a wire byte: `OK` or the raise goes to the
caller. -/
def settle (x : Flow Unit) : State :=
  match x with
  | .done _ s => s.setReply .ok
  | .raised e s => s.raise e

/-- The request HOST presents next, if any; CORE is woken by nothing but a request (R134). -/
def nextRequest (s : State) : Option (HostRequest × State) :=
  match s.requests with
  | [] => none
  | q :: qs => some (q, s.setRequests qs)

/-- The instruction placed to be run next, if any (log entry 17). -/
def nextCall (s : State) : Option (Call × State) :=
  match s.calls with
  | [] => none
  | c :: cs => some (c, s.setCalls cs)

/-- The state in which the call is the next to be run: it stands first among the placed ones, and no
operation is in progress (log entry 17). -/
def placeCall (c : Call) (s : State) : State :=
  ((s.setTodo []).setPhase .idle).setCalls (c :: s.calls)

end Sys2Proof.Machine
end

