-- ==== Sys2Proof/Machine/Flags.lean ====
section
/-! DEFINITION. The result register as HOST sees it: the one status value of CORE and its codes
(10_state.md R19, R22, 60_exceptions.md R121). CORE has no other flag or condition. -/

namespace Sys2Proof.Machine

/-- The 2-bit code of `RESULT`; 3 is never produced (R121, U19). -/
def resultCode : Result → BitVec 2
  | .ok => 0#2
  | .ackTimeout => 1#2
  | .lineFault _ => 2#2

/-- The information `RESULT` carries: the pin's failure value for a line fault, nothing otherwise
(R121, R122). -/
def resultInfo : Result → Option Info
  | .ok => none
  | .ackTimeout => none
  | .lineFault info => some info

/-- Busy: `PHASE` is not Idle (R22). -/
def busy (s : State) : Bool :=
  match s.phase with
  | .idle => false
  | .start => true
  | .transfer => true
  | .stop => true

/-- What a control-and-status view of CORE holds: busy or not, and `RESULT` once it holds a value
(R22, R25). -/
def statusView (s : State) : Bool × Option Result :=
  (busy s, if s.resultKnown then some s.result else none)

end Sys2Proof.Machine
end

