-- ==== Sys2Proof/Machine/Transport.lean ====
section
/-! DEFINITION. XPORT (41_transport.md): `SEND_BIT`, `START`, `STOP` and `SEND_BYTE` with its
acknowledgement clock and wait, each event by event as the pseudocode gives them. -/

namespace Sys2Proof.Machine

/-- `SEND_BIT(b)` (R81). -/
def sendBit (b : Level) (s : State) : Flow Unit :=
  (clkSet false s).bind fun _ s =>
  (dioSet b s).bind fun _ s =>
  (clkSet true s).bind fun _ s =>
  .done () (delay s)

/-- `START`: DIO falls while CLK is high (R82). -/
def startCondition (s : State) : Flow Unit :=
  (clkSet false s).bind fun _ s =>
  (dioSet true s).bind fun _ s =>
  (clkSet true s).bind fun _ s =>
  dioSet false (delay s)

/-- `STOP`: DIO rises while CLK is high, then the settling delay (R84, the spec's decision D8). -/
def stopCondition (s : State) : Flow Unit :=
  (clkSet false s).bind fun _ s =>
  (dioSet false s).bind fun _ s =>
  (clkSet true s).bind fun _ s =>
  (dioSet true (delay s)).bind fun _ s =>
  .done () (delay s)

/-- The data phase: `n` more bits, `SHREG[0]` first, `SHREG` shifted and `BIT_CNT` counted after each
(R16, R17, R87). -/
def shiftOut : Nat → State → Flow Unit
  | 0, s => .done () s
  | n + 1, s => (sendBit (s.shreg.getLsbD 0) s).bind fun _ s => shiftOut n s.shiftByte

/-- The acknowledgement wait with `n` iterations of the budget left: read first; a low level ends it
with no delay, a high one costs a delay and an iteration; an empty budget raises the timeout (R86, the
order inside an iteration decided in D10). -/
def pollWait : Nat → State → Flow Unit
  | 0, s => .raised .ackTimeout s
  | n + 1, s =>
    (dioRead s).bind fun r s =>
      match r with
      | false => .done () s
      | true => pollWait n ((delay s).setPollCnt (s.pollCnt + 1#8))

/-- `SEND_BYTE(v)`: eight data bits, bit 0 first; the acknowledgement clock, which is `SEND_BIT(1)`
(R85, D9); the acknowledgement wait (R87). -/
def sendByte (v : Byte) (s : State) : Flow Unit :=
  (shiftOut 8 (s.loadByte v)).bind fun _ s =>
  (sendBit true s).bind fun _ s =>
  pollWait s.cfg.ackPolls (s.setPollCnt 0#8)

/-- `START` as an instruction (R82). -/
def execStart (s : State) : Host.Outcome State Fault Refusal := .next (settle (startCondition s))

/-- `SEND_BIT b` as an instruction (R81). -/
def execSendBit (b : Level) (s : State) : Host.Outcome State Fault Refusal :=
  .next (settle (sendBit b s))

/-- `SEND_BYTE v` as an instruction (R87). -/
def execSendByte (v : Byte) (s : State) : Host.Outcome State Fault Refusal :=
  .next (settle (sendByte v s))

/-- `STOP` as an instruction (R84). -/
def execStop (s : State) : Host.Outcome State Fault Refusal := .next (settle (stopCondition s))

end Sys2Proof.Machine
end

