-- ==== Sys2Proof/Machine/Wire.lean ====
section
/-! DEFINITION. The four wire bytes (30_encoding.md R50 to R56) as CMD sends them inside a transaction:
`SEND_BYTE` of the byte, then `BYTE_CNT` (42_commands.md R100). The position selects the format (R51);
nothing inspects the byte. -/

namespace Sys2Proof.Machine

/-- A command byte: `SEND_BYTE(cmd); BYTE_CNT <- 1` (R100). -/
def sendCommand (cmd : Byte) (s : State) : Flow Unit :=
  (sendByte cmd s).bind fun _ s => .done () (s.setByteCnt 1)

/-- A data byte: `SEND_BYTE(e); BYTE_CNT <- BYTE_CNT + 1` (R100). -/
def sendData (d : Byte) (s : State) : Flow Unit :=
  (sendByte d s).bind fun _ s => .done () (s.setByteCnt (s.byteCnt + 1))

/-- The command byte 0x40 (R52). -/
def execCmdDataAutoinc (s : State) : Host.Outcome State Fault Refusal :=
  .next (settle (sendCommand s.cfg.opcDataAutoinc s))

/-- The command byte `1100aaaa` (R53). -/
def execCmdAddr (a : BitVec 4) (s : State) : Host.Outcome State Fault Refusal :=
  .next (settle (sendCommand (cmdAddrByte s.cfg (a.setWidth 8)) s))

/-- The command byte `10001lll` (R54). -/
def execCmdBrightOn (l : BitVec 3) (s : State) : Host.Outcome State Fault Refusal :=
  .next (settle (sendCommand (cmdBrightByte s.cfg (l.setWidth 8)) s))

/-- A data byte, any value (R56). -/
def execData (d : Byte) (s : State) : Host.Outcome State Fault Refusal :=
  .next (settle (sendData d s))

end Sys2Proof.Machine
end

