-- ==== Sys2Proof/Machine/Command.lean ====
section
/-! DEFINITION. CMD (42_commands.md): the frame of R100 and the six operations HOST can request, and the
two reserved codes (30_encoding.md R62). -/

namespace Sys2Proof.Machine

/-- Data bytes CMD generates itself: none for `INIT` and `SET_BRIGHTNESS`, zeros for `CLEAR` (R101,
R102, R106). -/
def sendOwn : List Byte → State → Flow Unit
  | [], s => .done () s
  | d :: ds, s => (sendData d s).bind fun _ s => sendOwn ds s

/-- The payload loop: take an element, translate it, send it; the next is taken only when this one has
been acknowledged (R42, R100, R103 to R105, R107). The list is HOST's remaining sequence. -/
def sendPayload (t : Translate) : List Byte → State → Flow Unit
  | [], s => .done () s
  | e :: es, s => (sendData (translate t s e) (s.takeElem es)).bind fun _ s => sendPayload t es s

/-- The end of the frame: success, or the abort of R124 (R100). -/
def closeFrame (x : Flow Unit) : State :=
  match x with
  | .done _ s => s.complete
  | .raised e s => s.abort e

/-- `TRANSACTION(cmd, next)` (R100); `body` sends the data bytes. -/
def transaction (cmd : Byte) (body : State → Flow Unit) (s : State) : State :=
  closeFrame <|
    (startCondition ((s.setPhase .start).setByteCnt 0)).bind fun _ s =>
    (sendCommand cmd (s.setPhase .transfer)).bind fun _ s =>
    (body s).bind fun _ s =>
    stopCondition (s.setPhase .stop)

/-- A request with code `op`: accepted only when `PHASE = Idle` (R26, R144), and then `run`. -/
def serve (op : BitVec 3) (r : Request) (run : State → State) (s : State) : State :=
  match s.phase with
  | .idle => run (s.accept op r)
  | .start => s.turnAway
  | .transfer => s.turnAway
  | .stop => s.turnAway

/-- A write operation: the address command byte, then the payload translated by `t` (R103 to R105). -/
def runWrite (t : Translate) (s : State) : State :=
  transaction (cmdAddrByte s.cfg s.addr) (fun s => sendPayload t s.payload s) s

/-- `INIT` (R101). -/
def execInit (r : Request) (s : State) : Host.Outcome State Fault Refusal :=
  .next (serve 0#3 r (fun s => transaction s.cfg.opcDataAutoinc (sendOwn []) s) s)

/-- `CLEAR` (R102): address 0, four zero bytes generated inside CORE. -/
def execClear (r : Request) (s : State) : Host.Outcome State Fault Refusal :=
  .next (serve 1#3 r (fun s =>
    transaction (cmdAddrByte s.cfg 0#8) (sendOwn (List.replicate s.cfg.nPos s.cfg.blank)) s) s)

/-- `WRITE_RAW` (R103). -/
def execWriteRaw (r : Request) (s : State) : Host.Outcome State Fault Refusal :=
  .next (serve 2#3 r (runWrite .raw) s)

/-- `WRITE_HEX` (R104). -/
def execWriteHex (r : Request) (s : State) : Host.Outcome State Fault Refusal :=
  .next (serve 3#3 r (runWrite .hex) s)

/-- `WRITE_CHARS` (R105); refused like a reserved code when `HAS_CHAR` is false (R62, R77). -/
def execWriteChars (r : Request) (s : State) : Host.Outcome State Fault Refusal :=
  .next (if s.cfg.hasChar then serve 4#3 r (runWrite .char) s else s.turnAway)

/-- `SET_BRIGHTNESS` (R106). -/
def execSetBrightness (r : Request) (s : State) : Host.Outcome State Fault Refusal :=
  .next (serve 5#3 r (fun s => transaction (cmdBrightByte s.cfg s.level) (sendOwn []) s) s)

/-- Request code 6: refused, not accepted, no event, `PHASE` and `RESULT` as they were (R62, D2). -/
def execReservedOp6 (s : State) : Host.Outcome State Fault Refusal := .next s.turnAway

/-- Request code 7: refused, not accepted, no event, `PHASE` and `RESULT` as they were (R62, D2). -/
def execReservedOp7 (s : State) : Host.Outcome State Fault Refusal := .next s.turnAway

end Sys2Proof.Machine
end

