-- ==== Sys2Proof/Machine/Encoder.lean ====
section
/-! DEFINITION. ENC (40_encoder.md) and the bit period: pure functions of the operand, the ROMs and the
build; they return a value and write no register of CORE (R70, R74, R76, R80). -/

namespace Sys2Proof.Machine

/-- `HEXDIGIT n` returns the pattern of the low four bits of `n` (R70). -/
def execHexDigit (n : Byte) (s : State) : Host.Outcome State Fault Refusal :=
  .next (s.setReply (.pattern (hexPattern s.cfg n)))

/-- `CHARACTER c` returns the letter's pattern or `BLANK` (R74); on a block without the letter table
it does not exist (R77). -/
def execCharacter (c : Byte) (s : State) : Host.Outcome State Fault Refusal :=
  if s.cfg.hasChar then .next (s.setReply (.pattern (charPattern s.cfg c)))
  else .refused .noLetterTable

/-- `BIT_DELAY` returns `DELAY_US` (R80). -/
def execBitDelay (s : State) : Host.Outcome State Fault Refusal :=
  .next (s.setReply (.micros (delayUs s.cfg)))

end Sys2Proof.Machine
end

