-- ==== Sys2Proof/Machine/Dispatch.lean ====
section
/-! DEFINITION. The dispatch: one arm per constructor of Instr, each one direct call of its meaning. -/

namespace Sys2Proof.Machine

/-- What an instruction does to a state. -/
def exec (i : Instr) (s : State) : Host.Outcome State Fault Refusal :=
  match i with
  | .cmdDataAutoinc => Sys2Proof.Machine.execCmdDataAutoinc s
  | .cmdAddr a => Sys2Proof.Machine.execCmdAddr a s
  | .cmdBrightOn l => Sys2Proof.Machine.execCmdBrightOn l s
  | .data d => Sys2Proof.Machine.execData d s
  | .init r => Sys2Proof.Machine.execInit r s
  | .clear r => Sys2Proof.Machine.execClear r s
  | .writeRaw r => Sys2Proof.Machine.execWriteRaw r s
  | .writeHex r => Sys2Proof.Machine.execWriteHex r s
  | .writeChars r => Sys2Proof.Machine.execWriteChars r s
  | .setBrightness r => Sys2Proof.Machine.execSetBrightness r s
  | .reservedOp6 _ => Sys2Proof.Machine.execReservedOp6 s
  | .reservedOp7 _ => Sys2Proof.Machine.execReservedOp7 s
  | .start => Sys2Proof.Machine.execStart s
  | .sendBit b => Sys2Proof.Machine.execSendBit b s
  | .sendByte v => Sys2Proof.Machine.execSendByte v s
  | .stop => Sys2Proof.Machine.execStop s
  | .hexDigit n => Sys2Proof.Machine.execHexDigit n s
  | .character c => Sys2Proof.Machine.execCharacter c s
  | .bitDelay => Sys2Proof.Machine.execBitDelay s

end Sys2Proof.Machine
end

