-- ==== Sys2Proof/Machine/Sequencer.lean ====
section
/-! DEFINITION. CORE at the grain of events (20_memory.md R38, D23): the operation in progress is a list
of micro-operations, the lines of the spec's pseudocode, and one tick runs one of them, so that at most
one event happens in a tick and `PHASE`, `SHREG`, `BIT_CNT` and `POLL_CNT` can be seen at every point of
an operation. This is the grain at which `step` runs HOST's requests; `exec` gives an operation's effect
whole, and that the two agree is a statement of Obligations.lean. -/

namespace Sys2Proof.Machine

/-- The lines of `SEND_BIT(b)` (R81). -/
def codeSendBit (b : Level) : List Micro := [.clk false, .dio b, .clk true, .wait]

/-- The lines of one turn of `SEND_BYTE`'s data loop (R87). -/
def codeDataBit : List Micro := [.clk false, .dioShreg, .clk true, .wait, .shift]

/-- The lines of `START` (R82). -/
def codeStart : List Micro := [.clk false, .dio true, .clk true, .wait, .dio false]

/-- The lines of `STOP` (R84). -/
def codeStop : List Micro := [.clk false, .dio false, .clk true, .wait, .dio true, .wait]

/-- The lines of `SEND_BYTE(v)` (R85 to R87). -/
def codeSendByte (v : Byte) : List Micro :=
  .load v :: ((List.replicate 8 codeDataBit).flatten ++ codeSendBit true ++ [Micro.pollReset, Micro.poll])

/-- The lines of `TRANSACTION(cmd, next)`, `body` being those of its data bytes (R100). -/
def codeTransaction (cmd : Byte) (body : List Micro) : List Micro :=
  codeStart ++ [Micro.phase .transfer] ++ codeSendByte cmd ++ [Micro.firstByte] ++ body
    ++ [Micro.phase .stop] ++ codeStop ++ [Micro.finish]

/-- The lines of data bytes CMD generates itself (R102). -/
def codeOwn (ds : List Byte) : List Micro :=
  (ds.map fun d => codeSendByte d ++ [Micro.nextByte]).flatten

/-- The lines of the operation a request code selects, read from the operand registers; none for a
code that selects no operation on this block (R60, R62, R77, R101 to R106). -/
def codeOf (s : State) : Option (List Micro) :=
  match s.op.toNat with
  | 0 => some (codeTransaction s.cfg.opcDataAutoinc [])
  | 1 => some (codeTransaction (cmdAddrByte s.cfg 0#8) (codeOwn (List.replicate s.cfg.nPos s.cfg.blank)))
  | 2 => some (codeTransaction (cmdAddrByte s.cfg s.addr) [.elem .raw])
  | 3 => some (codeTransaction (cmdAddrByte s.cfg s.addr) [.elem .hex])
  | 4 => if s.cfg.hasChar then some (codeTransaction (cmdAddrByte s.cfg s.addr) [.elem .char]) else none
  | 5 => some (codeTransaction (cmdBrightByte s.cfg s.level) [])
  | _ => none

/-- HOST presents a request at the grain of events: accepted in Idle, where `PHASE` becomes Start and
`BYTE_CNT` zero (R26, R100); turned away otherwise, and for a code that selects nothing (R62, R144). -/
def present (op : BitVec 3) (r : Request) (s : State) : State :=
  match s.phase with
  | .idle =>
    match codeOf (s.accept op r) with
    | some code => (((s.accept op r).setPhase .start).setByteCnt 0).setTodo code
    | none => s.turnAway
  | .start => s.turnAway
  | .transfer => s.turnAway
  | .stop => s.turnAway

/-- One micro-operation; the two loop heads put the lines of one turn before what is left. -/
def micro (m : Micro) (s : State) : Flow Unit :=
  match m with
  | .phase p => .done () (s.setPhase p)
  | .clk b => clkSet b s
  | .dio b => dioSet b s
  | .dioShreg => dioSet (s.shreg.getLsbD 0) s
  | .wait => .done () (delay s)
  | .load v => .done () (s.loadByte v)
  | .shift => .done () s.shiftByte
  | .pollReset => .done () (s.setPollCnt 0#8)
  | .poll =>
    if s.pollCnt.toNat < s.cfg.ackPolls then
      (dioRead s).bind fun r s =>
        match r with
        | false => .done () s
        | true => .done () (s.setTodo (.wait :: .pollBump :: .poll :: s.todo))
    else .raised .ackTimeout s
  | .pollBump => .done () (s.setPollCnt (s.pollCnt + 1#8))
  | .firstByte => .done () (s.setByteCnt 1)
  | .nextByte => .done () (s.setByteCnt (s.byteCnt + 1))
  | .elem t =>
    match s.payload with
    | [] => .done () s
    | e :: es =>
      .done () ((s.takeElem es).setTodo
        (codeSendByte (translate t s e) ++ Micro.nextByte :: .elem t :: s.todo))
  | .finish => .done () s.complete

/-- One tick of the operation in progress; an error aborts it at that event (R124). Between operations
nothing happens (R134). -/
def tick (s : State) : State :=
  match s.todo with
  | [] => s
  | m :: rest =>
    match micro m (s.setTodo rest) with
    | .done _ t => t
    | .raised e t => t.raise e

/-- The step of CORE at the grain of events: one tick of the operation in progress; between operations the
acceptance of HOST's next request; with no request, nothing (R26, R38, R134, D23). -/
def advance (s : State) : State :=
  match s.todo with
  | _ :: _ => tick s
  | [] =>
    match nextRequest s with
    | some (q, t) => present q.op q.operands t
    | none => s

/-- `n` ticks. -/
def ticks : Nat → State → State
  | 0, s => s
  | n + 1, s => ticks n (tick s)

end Sys2Proof.Machine
end

