-- ==== Sys2Proof/Machine/Step.lean ====
section
/-! DEFINITION. One step of the machine. HOST's requests and the operations they start run one event a step
(20_memory.md R38, D23); between operations, an instruction placed in `State.calls` runs whole (log entries
2 and 17). -/

namespace Sys2Proof.Machine

/-- One step. -/
def step (s : State) : Host.Outcome State Fault Refusal :=
  match s.todo with
  | _ :: _ => .next (advance s)
  | [] =>
    match nextCall s with
    | none => .next (advance s)
    | some (c, t) =>
      match decode c with
      | .instr i => exec i t
      | .rejected _ => .fault .malformedCall

/-- `s` with the opcode table's word placed to be run next. -/
def State.withFetchWord (s : State) (nbits w : Nat) : State := placeCall (tableCall nbits w) s

end Sys2Proof.Machine
end

