-- ==== Sys2Proof/Safety.lean ====
section
/-! DEFINITION. The terms claims are stated in: the event sequences the spec gives each primitive and
each transaction, the answers LINES must give for them, the device-side reading of an event list
(95_test_vectors.md section 2), and the invariant of the machine. -/

namespace Sys2Proof.Safety

open Sys2Proof.Machine

/-! The event sequences of the spec. `us` is `DELAY_US`. -/

/-- `SEND_BIT(b)` without failure (R81). -/
def traceBit (us : Nat) (b : Level) : List Event :=
  [.clkSet false, .dioSet b, .clkSet true, .delay us]

/-- `START` without failure (R82). -/
def traceStart (us : Nat) : List Event :=
  [.clkSet false, .dioSet true, .clkSet true, .delay us, .dioSet false]

/-- `STOP` without failure (R84). -/
def traceStop (us : Nat) : List Event :=
  [.clkSet false, .dioSet false, .clkSet true, .delay us, .dioSet true, .delay us]

/-- `k` poll iterations that read high (R86). -/
def traceHighs (us k : Nat) : List Event :=
  (List.replicate k [Event.dioRead true, Event.delay us]).flatten

/-- The eight data bits of `v`, bit 0 first, and the acknowledgement clock (R32, R85, R87). -/
def traceShift (us : Nat) (v : Byte) : List Event :=
  ((List.range 8).map fun i => traceBit us (v.getLsbD i)).flatten ++ traceBit us true

/-- `SEND_BYTE(v)` acknowledged after `k` high reads (R86, R87). -/
def traceByte (us : Nat) (v : Byte) (k : Nat) : List Event :=
  traceShift us v ++ traceHighs us k ++ [Event.dioRead false]

/-- The bytes of a transaction, each with its number of high reads. -/
def traceBytes (us : Nat) (bs : List (Byte × Nat)) : List Event :=
  (bs.map fun p => traceByte us p.1 p.2).flatten

/-- A whole transaction: start, the bytes, stop (R58, R100). -/
def traceTransaction (us : Nat) (bs : List (Byte × Nat)) : List Event :=
  traceStart us ++ traceBytes us bs ++ traceStop us

/-! The answers of LINES. -/

/-- The access completes (R132). -/
def completes : Answer → Bool
  | .done _ => true
  | .failed _ => false

/-- `n` accesses that complete. -/
def Drives (n : Nat) (as : List Answer) : Prop := as.length = n ∧ ∀ a ∈ as, completes a = true

/-- The answers to one `SEND_BYTE` acknowledged at read `k + 1`: 27 completed drives, `k` high reads,
one low read (R88). -/
def ByteAcked (k : Nat) (as : List Answer) : Prop :=
  k < 255 ∧ ∃ ds, Drives 27 ds ∧ as = ds ++ List.replicate k (Answer.done true) ++ [Answer.done false]

/-- The answers to one `SEND_BYTE` that times out: 27 completed drives and 255 high reads (R86). -/
def ByteUnacked (as : List Answer) : Prop :=
  ∃ ds, Drives 27 ds ∧ as = ds ++ List.replicate 255 (Answer.done true)

/-- The answers to bytes acknowledged after the given numbers of high reads. -/
def BytesAcked : List Nat → List Answer → Prop
  | [], as => as = []
  | k :: ks, as => ∃ a b, as = a ++ b ∧ ByteAcked k a ∧ BytesAcked ks b

/-- The answers to a transaction without failure: 4 drives, the bytes, 4 drives (R88). -/
def TransactionAcked (ks : List Nat) (as : List Answer) : Prop :=
  ∃ a b c, as = a ++ b ++ c ∧ Drives 4 a ∧ BytesAcked ks b ∧ Drives 4 c

/-! What each operation puts on the wire (R108). -/

/-- The command byte and the data bytes of a request on a block with this configuration; none for an
instruction that opens no transaction. -/
def wireBytes (c : Config) : Instr → Option (Byte × List Byte)
  | .init _ => some (0x40#8, [])
  | .clear _ => some (0xC0#8, [0#8, 0#8, 0#8, 0#8])
  | .writeRaw r => some (0xC0#8 ||| (r.addr &&& 0x0F#8), r.payload)
  | .writeHex r => some (0xC0#8 ||| (r.addr &&& 0x0F#8), r.payload.map (hexPattern c))
  | .writeChars r => some (0xC0#8 ||| (r.addr &&& 0x0F#8), r.payload.map (charPattern c))
  | .setBrightness r => some (0x88#8 ||| (r.level &&& 0x07#8), [])
  | .cmdDataAutoinc => none
  | .cmdAddr _ => none
  | .cmdBrightOn _ => none
  | .data _ => none
  | .reservedOp6 _ => none
  | .reservedOp7 _ => none
  | .start => none
  | .sendBit _ => none
  | .sendByte _ => none
  | .stop => none
  | .hexDigit _ => none
  | .character _ => none
  | .bitDelay => none

/-- The operands of an instruction that is a request record (R60). -/
def requestOf : Instr → Option Request
  | .init r => some r
  | .clear r => some r
  | .writeRaw r => some r
  | .writeHex r => some r
  | .writeChars r => some r
  | .setBrightness r => some r
  | .reservedOp6 r => some r
  | .reservedOp7 r => some r
  | .cmdDataAutoinc => none
  | .cmdAddr _ => none
  | .cmdBrightOn _ => none
  | .data _ => none
  | .start => none
  | .sendBit _ => none
  | .sendByte _ => none
  | .stop => none
  | .hexDigit _ => none
  | .character _ => none
  | .bitDelay => none

/-- Which operations take HOST's payload (R101 to R106). -/
def takesPayload : Instr → Bool
  | .writeRaw _ => true
  | .writeHex _ => true
  | .writeChars _ => true
  | .init _ => false
  | .clear _ => false
  | .setBrightness _ => false
  | .reservedOp6 _ => false
  | .reservedOp7 _ => false
  | .cmdDataAutoinc => false
  | .cmdAddr _ => false
  | .cmdBrightOn _ => false
  | .data _ => false
  | .start => false
  | .sendBit _ => false
  | .sendByte _ => false
  | .stop => false
  | .hexDigit _ => false
  | .character _ => false
  | .bitDelay => false

/-- A state in which the request of `i` is accepted and runs: Idle, nothing in progress, and for
`WRITE_CHARS` the letter table built (R26, R62). -/
def Ready (i : Instr) (s : State) : Prop :=
  s.phase = .idle ∧ s.todo = [] ∧ WellFormed s.cfg.hasChar i = true

/-- The state a request leaves when nothing fails: every register the spec says it writes, at the value
the spec gives, and everything else as it was (R16 to R20, R26, R84, R87, R100). `bs` are its bytes on
the wire, each with its number of high reads; `as` the answers used, `rest` those left. -/
def completed (s : State) (op : BitVec 3) (r : Request) (bs : List (Byte × Nat)) (payload : List Byte)
    (taken : Nat) (as rest : List Answer) : State :=
  { s with
    op := op
    addr := r.addr
    level := r.level
    payload := payload
    taken := taken
    clkO := true
    clkKnown := true
    dioO := true
    dioKnown := true
    phase := .idle
    byteCnt := bs.length
    shreg := 0#8
    bitCnt := 8#4
    pollCnt := BitVec.ofNat 8 (bs.getLastD (0#8, 0)).2
    result := .ok
    resultKnown := true
    reply := .ok
    answers := rest
    accesses := s.accesses + as.length
    events := s.events ++ traceTransaction (delayUs s.cfg) bs }

/-- The state after one acknowledged byte, `k` high reads before the low one (R86, R87). -/
def byteSent (s : State) (v : Byte) (k : Nat) (as rest : List Answer) : State :=
  { s with
    clkO := true
    clkKnown := true
    dioO := true
    dioKnown := true
    shreg := 0#8
    bitCnt := 8#4
    pollCnt := BitVec.ofNat 8 k
    reply := .ok
    answers := rest
    accesses := s.accesses + as.length
    events := s.events ++ traceByte (delayUs s.cfg) v k }

/-! Reading an event list. -/

/-- The completed events: an attempted access that failed is not one (95_test_vectors.md section 0). -/
def isCompleted : Event → Bool
  | .failed _ => false
  | .clkSet _ => true
  | .dioSet _ => true
  | .dioRead _ => true
  | .delay _ => true

/-- An event that uses an answer of LINES: every drive and read, completed or failed. -/
def isAccess : Event → Bool
  | .delay _ => false
  | .clkSet _ => true
  | .dioSet _ => true
  | .dioRead _ => true
  | .failed _ => true

/-- Completed drives of CLK. -/
def isClkSet : Event → Bool
  | .clkSet _ => true
  | .dioSet _ => false
  | .dioRead _ => false
  | .delay _ => false
  | .failed _ => false

/-- Completed drives of DIO. -/
def isDioSet : Event → Bool
  | .dioSet _ => true
  | .clkSet _ => false
  | .dioRead _ => false
  | .delay _ => false
  | .failed _ => false

/-- Completed reads of DIO. -/
def isDioRead : Event → Bool
  | .dioRead _ => true
  | .clkSet _ => false
  | .dioSet _ => false
  | .delay _ => false
  | .failed _ => false

/-- Delays. -/
def isDelay : Event → Bool
  | .delay _ => true
  | .clkSet _ => false
  | .dioSet _ => false
  | .dioRead _ => false
  | .failed _ => false

/-- The levels of the completed drives of DIO, in order (the "DioSet string" of
95_test_vectors.md). -/
def dioLevels : List Event → List Level
  | [] => []
  | .dioSet b :: es => b :: dioLevels es
  | .clkSet _ :: es => dioLevels es
  | .dioRead _ :: es => dioLevels es
  | .delay _ :: es => dioLevels es
  | .failed _ :: es => dioLevels es

/-- The level of CLK that an event leaves, if known: the last completed drive, none after a failed one
(R11, R89). -/
def clkAfter (known : Option Level) : Event → Option Level
  | .clkSet b => some b
  | .failed (.clk _) => none
  | .failed (.dio _) => known
  | .failed .read => known
  | .dioSet _ => known
  | .dioRead _ => known
  | .delay _ => known

/-- The level of DIO that an event leaves, if known (R12, R89). -/
def dioAfter (known : Option Level) : Event → Option Level
  | .dioSet b => some b
  | .failed (.dio _) => none
  | .failed (.clk _) => known
  | .failed .read => known
  | .clkSet _ => known
  | .dioRead _ => known
  | .delay _ => known

/-- One item a device on the far side of the lines makes out. -/
inductive WireItem where
  | start
  | byte (v : Byte)
  | stop
deriving DecidableEq, Repr

/-- The device-side reader (95_test_vectors.md section 2). -/
structure WireReader where
  clk : Option Level
  dio : Option Level
  inside : Bool
  bits : List Level
  out : List WireItem
deriving DecidableEq, Repr

/-- The reader before the first event. -/
def WireReader.fresh : WireReader :=
  { clk := none, dio := none, inside := false, bits := [], out := [] }

/-- The byte whose bit `i` is element `i` of the list. -/
def byteOfBits (bits : List Level) : Byte :=
  bits.foldr (fun b v => (v <<< 1) ||| (if b then 1#8 else 0#8)) 0#8

/-- A drive of CLK as the reader sees it: a rising edge inside a transaction samples DIO, and nine
samples are a byte and its acknowledgement clock. -/
def WireReader.onClk (w : WireReader) (b : Level) : WireReader :=
  let sampled := if w.inside && w.clk == some false && b then w.bits ++ [w.dio.getD false] else w.bits
  if w.inside && sampled.length == 9 then
    { w with clk := some b, bits := [], out := w.out ++ [WireItem.byte (byteOfBits (sampled.take 8))] }
  else { w with clk := some b, bits := sampled }

/-- A drive of DIO as the reader sees it: falling while CLK is high is the start condition, rising is
the stop condition. -/
def WireReader.onDio (w : WireReader) (b : Level) : WireReader :=
  if w.clk == some true && w.dio == some true && !b then
    { w with dio := some b, inside := true, bits := [], out := w.out ++ [WireItem.start] }
  else if w.clk == some true && w.dio == some false && b && w.inside then
    { w with dio := some b, inside := false, bits := [], out := w.out ++ [WireItem.stop] }
  else { w with dio := some b }

/-- One event; delays, reads and failed accesses are skipped. -/
def WireReader.onEvent (w : WireReader) : Event → WireReader
  | .clkSet b => w.onClk b
  | .dioSet b => w.onDio b
  | .dioRead _ => w
  | .delay _ => w
  | .failed _ => w

/-- What a device makes out of an event list: the `S <..> P` notation of 42_commands.md. -/
def readWire (es : List Event) : List WireItem := (es.foldl WireReader.onEvent WireReader.fresh).out

/-- The drives of DIO that change its level while CLK is high, with the new level, from known levels
`clk` and `dio` on (R90). -/
def edgesFrom (clk dio : Level) : List Event → List Level
  | [] => []
  | .clkSet b :: es => edgesFrom b dio es
  | .dioSet b :: es => if clk && (dio != b) then b :: edgesFrom clk b es else edgesFrom clk b es
  | .dioRead _ :: es => edgesFrom clk dio es
  | .delay _ :: es => edgesFrom clk dio es
  | .failed _ :: es => edgesFrom clk dio es

/-- The number of rising edges of CLK, from level `clk` on (R90). -/
def risingFrom (clk : Level) : List Event → Nat
  | [] => 0
  | .clkSet b :: es => (if !clk && b then 1 else 0) + risingFrom b es
  | .dioSet _ :: es => risingFrom clk es
  | .dioRead _ :: es => risingFrom clk es
  | .delay _ :: es => risingFrom clk es
  | .failed _ :: es => risingFrom clk es

/-! The invariant. -/

/-- A micro-operation that leaves `PHASE` as it is unless it raises: every one but the changes of phase and
the end of the operation. -/
def keepsPhase : Micro → Bool
  | .finish => false
  | .phase _ => false
  | .clk _ => true
  | .dio _ => true
  | .dioShreg => true
  | .wait => true
  | .load _ => true
  | .shift => true
  | .pollReset => true
  | .poll => true
  | .pollBump => true
  | .firstByte => true
  | .nextByte => true
  | .elem _ => true

/-- The last lines of every operation: the stop condition and the return to Idle (R100). -/
def codeEnd : List Micro := Micro.phase .stop :: (codeStop ++ [Micro.finish])

/-- `PHASE` tells what is left of the operation (R14, R100): in Idle nothing; in Start an end of the start
condition and then the rest; in Transfer lines that keep the phase and then the stop condition; in Stop an
end of the stop condition, the return to Idle included. -/
def Sequenced (s : State) : Prop :=
  match s.phase with
  | .idle => s.todo = []
  | .start => ∃ pre body, pre <:+ codeStart ∧ (∀ m ∈ body, keepsPhase m = true)
      ∧ s.todo = pre ++ Micro.phase .transfer :: (body ++ codeEnd)
  | .transfer => ∃ body, (∀ m ∈ body, keepsPhase m = true) ∧ s.todo = body ++ codeEnd
  | .stop => s.todo ≠ [] ∧ s.todo <:+ codeStop ++ [Micro.finish]

/-- The level of a latch, if it holds a known value (R25, R89). -/
def latchView (known : Bool) (level : Level) : Option Level :=
  match known with
  | true => some level
  | false => none

/-- A latch marked as known holds the level of its line's last completed drive, and it is marked so
exactly when that drive has not been followed by a failed one (R11, R12, R25, R89). -/
def LatchesTrue (s : State) : Prop :=
  latchView s.clkKnown s.clkO = s.events.foldl clkAfter none
    ∧ latchView s.dioKnown s.dioO = s.events.foldl dioAfter none

/-- Every delay CORE has requested is one bit period (R80, R131). -/
def DelaysTrue (s : State) : Prop := ∀ n, Event.delay n ∈ s.events → n = delayUs s.cfg

/-- The invariant of the machine. -/
structure Inv (s : State) : Prop where
  sequenced : Sequenced s
  latches : LatchesTrue s
  delays : DelaysTrue s

/-- The state after `n` steps, if none of them stops. -/
def runs : Nat → State → Option State
  | 0, s => some s
  | n + 1, s =>
    match step s with
    | .next t => runs n t
    | .fault _ => none
    | .refused _ => none

end Sys2Proof.Safety
end

