-- ==== Sys2Proof/Certificates/Slice0/Obligations.lean ====
section
/-! DEFINITION. The statements for the provers. Each docstring says which words of spec/ it formalises,
and, where it rests on a decision or an inference the spec marks as its own, or on a choice of the
model's, says so. -/

open Sys2Proof Sys2Proof.Machine Sys2Proof.Safety

/-! Encoding. -/

/-- Decode and encode agree: the decoder reads back every instruction, with every operand at every
value. The packing into bytes is the model's (log entry 1), the codes those of 30_encoding.md sections 1, 2
and 5. -/
def Obligations.DecodeOfEncode : Prop := ∀ i : Instr, decode (encode i) = .instr i

/-- Each word has one meaning: what decodes to an instruction is exactly that instruction's word (log
entry 1). -/
def Obligations.EncodeOfDecode : Prop :=
  ∀ (c : Call) (i : Instr), decode c = .instr i → encode i = c

/-- Words written out from the formats and code tables of 30_encoding.md decode to what they stand
for, and the reserved and the impossible ones are told apart (30_encoding.md sections 2, 5 and 6, the
spec's decision D2; packing: log entry 1). -/
def Obligations.WordsFromTheTables : Prop :=
  decode ⟨.command, [0b01000000#8]⟩ = .instr .cmdDataAutoinc
    ∧ decode ⟨.command, [0b11001001#8]⟩ = .instr (.cmdAddr 0b1001#4)
    ∧ decode ⟨.command, [0b10001110#8]⟩ = .instr (.cmdBrightOn 0b110#3)
    ∧ decode ⟨.command, [0b10000110#8]⟩ = .rejected .notACommandByte
    ∧ decode ⟨.data, [0b11001001#8]⟩ = .instr (.data 0xC9#8)
    ∧ decode ⟨.request, [0b011#8, 0x12#8, 0x00#8, 0x0F#8]⟩ = .instr (.writeHex ⟨0x12#8, 0x00#8, [0x0F#8]⟩)
    ∧ decode ⟨.request, [0b110#8, 0x00#8, 0x00#8]⟩ = .instr (.reservedOp6 ⟨0x00#8, 0x00#8, []⟩)
    ∧ decode ⟨.transport, [0b01#8, 0b1#8]⟩ = .instr (.sendBit true)
    ∧ decode ⟨.transport, [0b10#8, 0xA5#8]⟩ = .instr (.sendByte 0xA5#8)
    ∧ decode ⟨.encoder, [0b1#8, 0x41#8]⟩ = .instr (.character 0x41#8)

/-! The step. -/

/-- A step runs the decoded instruction: between operations the instruction placed next is taken off its
list and run, nothing else happening (log entries 2 and 17; HOST's requests: StepAdvancesRequests and
RequestRunsToExec). -/
def Obligations.StepRunsDecodedInstruction : Prop :=
  ∀ (s : State) (c : Call) (cs : List Call) (i : Instr),
    s.todo = [] → s.calls = c :: cs → decode c = .instr i →
      step s = exec i { s with calls := cs }

/-- A word of the opcode table placed for the next step is run by the next step (log entry 17). -/
def Obligations.PlacedWordRunsNext : Prop :=
  ∀ (s : State) (nbits w : Nat) (i : Instr), decodeTableWord nbits w = some i →
    step (s.withFetchWord nbits w) = exec i { s with todo := [], phase := .idle }

/-- The other steps: an operation in progress advances by one tick; with no request, nothing placed and
nothing in progress nothing happens (60_exceptions.md section 8); bytes that are no word stop the machine
by name (log entries 1, 2 and 17). -/
def Obligations.StepOtherwise : Prop :=
  ∀ s : State,
    (s.todo ≠ [] → step s = .next (tick s))
      ∧ (s.todo = [] → s.calls = [] → s.requests = [] → step s = .next s)
      ∧ (∀ c cs e, s.todo = [] → s.calls = c :: cs → decode c = .rejected e →
          step s = .fault .malformedCall)

/-- HOST's request is presented by one step, which only accepts it: `PHASE` becomes Start, the operand
registers are loaded, no byte is counted and no event happens; or it is turned away, where its code selects
no operation on this block (10_state.md section 11, 42_commands.md section 1, 30_encoding.md section 6 with
the spec's decisions D2 and D23; the refusal is log entry 9). -/
def Obligations.StepAdvancesRequests : Prop :=
  ∀ (s : State) (q : HostRequest) (qs : List HostRequest),
    s.phase = .idle → s.todo = [] → s.calls = [] → s.requests = q :: qs →
      ((q.op.toNat < 6 ∧ (q.op.toNat = 4 → s.cfg.hasChar = true)) →
        ∃ code, code ≠ [] ∧ step s = .next { s with
          requests := qs, op := q.op, addr := q.operands.addr, level := q.operands.level,
          payload := q.operands.payload, taken := 0, phase := .start, byteCnt := 0, todo := code })
      ∧ (¬ (q.op.toNat < 6 ∧ (q.op.toNat = 4 → s.cfg.hasChar = true)) →
        step s = .next { s with requests := qs, reply := .notAccepted })

/-- HOST's request, run one event a step, reaches exactly the state that `exec` gives its instruction,
whatever LINES answers, and every state on the way has a beginning of its events (20_memory.md section 6,
the spec's decision D23; the two grains are log entry 2). -/
def Obligations.RequestRunsToExec : Prop :=
  ∀ (s : State) (q : HostRequest) (qs : List HostRequest) (i : Instr),
    s.phase = .idle → s.todo = [] → s.calls = [] → s.requests = q :: qs →
    decodeRequest (q.op.setWidth 8) q.operands = .instr i →
    ∃ n t, exec i { s with requests := qs } = .next t ∧ runs n s = some t ∧ t.todo = []
      ∧ ∀ m, m ≤ n → ∃ u, runs m s = some u ∧ u.events <+: t.events ∧ u.events.length ≤ s.events.length + m

/-- Every instruction answers a next state in every state, but `CHARACTER` on a block without the letter
table, which is refused by name (20_memory.md section 3, 60_exceptions.md sections 1 and 3; for that
refusal 40_encoder.md section 3, where `CHARACTER` is said not to exist then). That the requests the spec
refuses (the reserved codes, a request while busy, `WRITE_CHARS` without the table) answer a next state and
not a stop is the model's reading, log entry 9, of 30_encoding.md section 6 and 10_state.md section 11 with
the spec's decisions D2 and D21. -/
def Obligations.EveryInstructionAnswers : Prop :=
  ∀ (i : Instr) (s : State),
    (∃ t, exec i s = .next t)
      ∨ (∃ c, i = .character c ∧ s.cfg.hasChar = false ∧ exec i s = .refused .noLetterTable)

/-! ENC and the bit period. -/

/-- `HEXDIGIT n` returns the entry at `n mod 16`, whatever the size of `n`, and changes nothing else; the
entries of the digits 0, 1 and 15 are the source's in every block (40_encoder.md section 1; the width of `n`
is D3). -/
def Obligations.HexDigitResult : Prop :=
  ∀ (n : Byte) (s : State),
    exec (.hexDigit n) s = .next { s with reply := .pattern (s.cfg.hexRom.toList.getD (n.toNat % 16) 0#8) }
      ∧ (n.toNat % 16 = 0 → exec (.hexDigit n) s = .next { s with reply := .pattern 0x3F#8 })
      ∧ (n.toNat % 16 = 1 → exec (.hexDigit n) s = .next { s with reply := .pattern 0x06#8 })
      ∧ (n.toNat % 16 = 15 → exec (.hexDigit n) s = .next { s with reply := .pattern 0x71#8 })

/-- `CHARACTER` returns the entry of the letter in either case, and the blank pattern for every code
that is no letter, and changes nothing else (40_encoder.md section 2; the code set is D4). -/
def Obligations.CharacterResult : Prop :=
  ∀ s : State, s.cfg.hasChar = true →
    (∀ k, k < 26 →
        exec (.character (BitVec.ofNat 8 (0x41 + k))) s
            = .next { s with reply := .pattern (s.cfg.letterRom.toList.getD k 0#8) }
          ∧ exec (.character (BitVec.ofNat 8 (0x61 + k))) s
            = .next { s with reply := .pattern (s.cfg.letterRom.toList.getD k 0#8) })
      ∧ (∀ c : Byte, (∀ k, k < 26 → c ≠ BitVec.ofNat 8 (0x41 + k) ∧ c ≠ BitVec.ofNat 8 (0x61 + k)) →
          exec (.character c) s = .next { s with reply := .pattern 0#8 })

/-- R76: the result of each ENC function depends on its operand and the ROM contents alone; it writes
nothing of CORE, makes no event and cannot fail (`CHARACTER` where it exists). -/
def Obligations.EncoderIsCombinational : Prop :=
  ∀ s s' : State, s.cfg.hexRom = s'.cfg.hexRom → s.cfg.letterRom = s'.cfg.letterRom →
    (∀ n : Byte, ∃ p, exec (.hexDigit n) s = .next { s with reply := .pattern p }
        ∧ exec (.hexDigit n) s' = .next { s' with reply := .pattern p })
      ∧ (s.cfg.hasChar = true → s'.cfg.hasChar = true →
          ∀ c : Byte, ∃ p, exec (.character c) s = .next { s with reply := .pattern p }
            ∧ exec (.character c) s' = .next { s' with reply := .pattern p })

/-- With `HAS_CHAR` false `CHARACTER` does not exist and `WRITE_CHARS` is refused with no effect; every
other instruction does what it does with `HAS_CHAR` true, letter table or not; the reference block has the
table (40_encoder.md section 3, 30_encoding.md section 6; that the refused `WRITE_CHARS` is a next state in
which only the reply changes is log entry 9, with the spec's decision D2). -/
def Obligations.WithoutLetterTable : Prop :=
  (∀ (s : State), s.cfg.hasChar = false →
      (∀ c, exec (.character c) s = .refused .noLetterTable)
        ∧ (∀ r, exec (.writeChars r) s = .next { s with reply := .notAccepted }))
    ∧ (∀ (i : Instr) (s t : State) (b : Bool) (rom : Vector Byte 26), WellFormed false i = true →
        exec i s = .next t →
        exec i { s with cfg := { s.cfg with hasChar := b, letterRom := rom } }
          = .next { t with cfg := { t.cfg with hasChar := b, letterRom := rom } })
    ∧ State.reset.cfg.hasChar = true

/-- `BIT_DELAY` returns the least whole number of microseconds `n` with `n * 2 * MAX_FREQ_KHZ` at least
1000, never 0, and changes nothing else (41_transport.md section 1). -/
def Obligations.BitDelayIsCeiling : Prop :=
  ∀ s : State, ∃ n, exec .bitDelay s = .next { s with reply := .micros n }
    ∧ 1 ≤ n ∧ 1000 ≤ n * (2 * s.cfg.maxFreqKHz)
    ∧ ∀ m, 1000 ≤ m * (2 * s.cfg.maxFreqKHz) → n ≤ m

/-- Building the block with `MAX_FREQ_KHZ = 0` is refused and every positive value gives the block its
own bit period, the ceiling of 1000 over twice the frequency; the parameters the source fixes have their
values in every block (00_scope.md section 3, `N_POS` being D7; 41_transport.md section 1 with D19; the form
of the refusal and of the record is log entry 19). -/
def Obligations.ZeroFrequencyNotBuilt : Prop :=
  (∀ (f : Nat) (h : Bool) (rom : Vector Byte 26),
    (f = 0 → buildConfig f h rom = none)
      ∧ (0 < f → ∃ c, buildConfig f h rom = some c ∧ c.maxFreqKHz = f ∧ c.hasChar = h
          ∧ c.letterRom = rom ∧ delayUs c = (1000 + 2 * f - 1) / (2 * f)))
    ∧ (∀ c : Config, 0 < c.maxFreqKHz ∧ c.ackPolls = 255 ∧ c.nPos = 4 ∧ c.opcDataAutoinc = 0x40#8
        ∧ c.opcAddr = 0xC0#8 ∧ c.opcBrightOn = 0x88#8 ∧ c.addrMask = 0x0F#8 ∧ c.levelMask = 0x07#8
        ∧ c.nibbleMask = 0x0F#8 ∧ c.blank = 0x00#8)

/-! XPORT. -/

/-- `SEND_BIT(b)` whose three drives complete: the four events of the rule and nothing but CLK and DIO
changed, which are left high and at `b` (41_transport.md section 2). -/
def Obligations.SendBitCompletes : Prop :=
  ∀ (b : Level) (s : State) (as rest : List Answer), Drives 3 as → s.answers = as ++ rest →
    exec (.sendBit b) s = .next { s with
      clkO := true, clkKnown := true, dioO := b, dioKnown := true, reply := .ok, answers := rest,
      accesses := s.accesses + 3, events := s.events ++ traceBit (delayUs s.cfg) b }

/-- `START` whose four drives complete: CLK left high, DIO left low, DIO having fallen while CLK was
high (41_transport.md section 3). -/
def Obligations.StartCompletes : Prop :=
  ∀ (s : State) (as rest : List Answer), Drives 4 as → s.answers = as ++ rest →
    exec .start s = .next { s with
      clkO := true, clkKnown := true, dioO := false, dioKnown := true, reply := .ok, answers := rest,
      accesses := s.accesses + 4, events := s.events ++ traceStart (delayUs s.cfg) }

/-- `STOP` whose four drives complete: both lines left high (41_transport.md section 4; the sequence is
the spec's own decision D8). -/
def Obligations.StopCompletes : Prop :=
  ∀ (s : State) (as rest : List Answer), Drives 4 as → s.answers = as ++ rest →
    exec .stop s = .next { s with
      clkO := true, clkKnown := true, dioO := true, dioKnown := true, reply := .ok, answers := rest,
      accesses := s.accesses + 4, events := s.events ++ traceStop (delayUs s.cfg) }

/-- `SEND_BYTE(v)` acknowledged after `k` high reads, `k` up to 254: eight data bits, bit 0 first, the
acknowledgement clock, `k` reads each with a delay, one low read with none; `SHREG` empty, `BIT_CNT` 8,
`POLL_CNT` `k` (41_transport.md section 5; the acknowledgement clock is D9, the poll order D10). -/
def Obligations.SendByteCompletes : Prop :=
  ∀ (v : Byte) (k : Nat) (s : State) (as rest : List Answer), ByteAcked k as → s.answers = as ++ rest →
    exec (.sendByte v) s = .next (byteSent s v k as rest)

/-- `SEND_BYTE(v)` never acknowledged: after exactly 255 reads, each with its delay, the timeout and not
a line fault. Outside an operation it is returned to the caller and `RESULT` is not written; inside one
it ends the operation (41_transport.md section 5, D10; 60_exceptions.md section 2; where no operation is
in progress the form of the return is log entry 10). -/
def Obligations.SendByteTimesOut : Prop :=
  ∀ (v : Byte) (s : State) (as rest : List Answer), ByteUnacked as → s.answers = as ++ rest →
    exec (.sendByte v) s = .next { s with
      clkO := true, clkKnown := true, dioO := true, dioKnown := true,
      shreg := 0#8, bitCnt := 8#4, pollCnt := 255#8, answers := rest, accesses := s.accesses + 282,
      events := s.events ++ traceShift (delayUs s.cfg) v ++ traceHighs (delayUs s.cfg) 255,
      reply := .raised .ackTimeout,
      phase := .idle,
      todo := if s.phase = .idle then s.todo else [],
      result := if s.phase = .idle then s.result else .ackTimeout,
      resultKnown := if s.phase = .idle then s.resultKnown else true }

/-- R32: the drives of DIO in a byte are its bits, bit 0 first, then the release; a byte that ends early
has sent a beginning of that sequence, never another order. -/
def Obligations.LeastSignificantBitFirst : Prop :=
  ∀ (v : Byte) (s : State), ∃ t seg, exec (.sendByte v) s = .next t ∧ t.events = s.events ++ seg
    ∧ dioLevels seg <+: [v.getLsbD 0, v.getLsbD 1, v.getLsbD 2, v.getLsbD 3,
        v.getLsbD 4, v.getLsbD 5, v.getLsbD 6, v.getLsbD 7, true]
    ∧ (t.reply = .ok → dioLevels seg = [v.getLsbD 0, v.getLsbD 1, v.getLsbD 2, v.getLsbD 3,
        v.getLsbD 4, v.getLsbD 5, v.getLsbD 6, v.getLsbD 7, true])

/-- The event counts of the primitives, for whatever answers LINES gives, when the primitive ends in
success, and of a byte that times out (41_transport.md section 6, the spec's own derivation). -/
def Obligations.EventCounts : Prop :=
  ∀ (i : Instr) (s t : State) (seg : List Event), exec i s = .next t → t.events = s.events ++ seg →
    (∀ v, i = .sendByte v → t.reply = .ok →
        seg.countP isClkSet = 18 ∧ seg.countP isDioSet = 9 ∧ 1 ≤ seg.countP isDioRead
          ∧ seg.countP isDioRead ≤ 255 ∧ seg.countP isDelay = 8 + seg.countP isDioRead
          ∧ t.pollCnt.toNat + 1 = seg.countP isDioRead)
      ∧ (∀ v, i = .sendByte v → t.reply = .raised .ackTimeout →
          seg.countP isClkSet = 18 ∧ seg.countP isDioSet = 9 ∧ seg.countP isDioRead = 255
            ∧ seg.countP isDelay = 264)
      ∧ (∀ b, i = .sendBit b → t.reply = .ok →
          seg.countP isClkSet = 2 ∧ seg.countP isDioSet = 1 ∧ seg.countP isDioRead = 0
            ∧ seg.countP isDelay = 1)
      ∧ (i = .start → t.reply = .ok →
          seg.countP isClkSet = 2 ∧ seg.countP isDioSet = 2 ∧ seg.countP isDioRead = 0
            ∧ seg.countP isDelay = 1)
      ∧ (i = .stop → t.reply = .ok →
          seg.countP isClkSet = 2 ∧ seg.countP isDioSet = 2 ∧ seg.countP isDioRead = 0
            ∧ seg.countP isDelay = 2)

/-- The frame of the transport primitives, for whatever answers LINES gives: the configuration with
its ROMs, the operand registers, `BYTE_CNT`, what is placed for the machine and the payload are as they were; so are `PHASE`,
`RESULT` and what is left to do, unless the primitive raised inside an operation; and only `SEND_BYTE`
touches `SHREG`, `BIT_CNT` and `POLL_CNT` (41_transport.md, "state written" of each primitive). -/
def Obligations.TransportFrame : Prop :=
  ∀ (i : Instr) (s t : State),
    (i = .start ∨ i = .stop ∨ (∃ b, i = .sendBit b) ∨ (∃ v, i = .sendByte v)) → exec i s = .next t →
      t.cfg = s.cfg ∧ t.calls = s.calls ∧ t.op = s.op ∧ t.addr = s.addr
        ∧ t.level = s.level ∧ t.byteCnt = s.byteCnt ∧ t.requests = s.requests ∧ t.payload = s.payload
        ∧ t.taken = s.taken
        ∧ (t.reply = .ok ∨ s.phase = .idle →
            t.phase = s.phase ∧ t.result = s.result ∧ t.resultKnown = s.resultKnown ∧ t.todo = s.todo)
        ∧ ((∀ v, i ≠ .sendByte v) → t.shreg = s.shreg ∧ t.bitCnt = s.bitCnt ∧ t.pollCnt = s.pollCnt)

/-! The wire bytes. -/

/-- The three command bytes, acknowledged: `0x40`, `0xC0 + a`, `0x88 + l` are sent and `BYTE_CNT` is 1
(30_encoding.md section 2, 42_commands.md section 1; the acknowledgement clock is D9, the poll order D10; as
instructions of their own: log entry 11). -/
def Obligations.CommandBytesSent : Prop :=
  ∀ (k : Nat) (s : State) (as rest : List Answer), ByteAcked k as → s.answers = as ++ rest →
    exec .cmdDataAutoinc s = .next { byteSent s 0x40#8 k as rest with byteCnt := 1 }
      ∧ (∀ a : BitVec 4, exec (.cmdAddr a) s
          = .next { byteSent s (BitVec.ofNat 8 (0xC0 + a.toNat)) k as rest with byteCnt := 1 })
      ∧ (∀ l : BitVec 3, exec (.cmdBrightOn l) s
          = .next { byteSent s (BitVec.ofNat 8 (0x88 + l.toNat)) k as rest with byteCnt := 1 })

/-- A data byte, any of the 256, acknowledged: sent unchanged, `BYTE_CNT` one more (30_encoding.md
sections 1 and 2, 42_commands.md section 1; the acknowledgement clock is D9, the poll order D10; as an
instruction of its own: log entry 11). -/
def Obligations.DataByteSent : Prop :=
  ∀ (d : Byte) (k : Nat) (s : State) (as rest : List Answer), ByteAcked k as → s.answers = as ++ rest →
    exec (.data d) s = .next { byteSent s d k as rest with byteCnt := s.byteCnt + 1 }

/-- The frame of the wire bytes, for whatever answers: as that of the transport primitives, but for
`BYTE_CNT`, which counts the byte only when it was acknowledged (10_state.md section 3). -/
def Obligations.WireByteFrame : Prop :=
  ∀ (i : Instr) (s t : State),
    (i = .cmdDataAutoinc ∨ (∃ a, i = .cmdAddr a) ∨ (∃ l, i = .cmdBrightOn l) ∨ (∃ d, i = .data d)) →
    exec i s = .next t →
      t.cfg = s.cfg ∧ t.calls = s.calls ∧ t.op = s.op ∧ t.addr = s.addr
        ∧ t.level = s.level ∧ t.requests = s.requests ∧ t.payload = s.payload ∧ t.taken = s.taken
        ∧ (t.reply ≠ .ok → t.byteCnt = s.byteCnt)
        ∧ (t.reply = .ok ∨ s.phase = .idle →
            t.phase = s.phase ∧ t.result = s.result ∧ t.resultKnown = s.resultKnown ∧ t.todo = s.todo)

/-! CMD. -/

/-- `INIT` without failure: `S <40> P`, no element taken, `addr` and `level` loaded and unused
(42_commands.md sections 1 and 2; STOP, the acknowledgement clock and the poll order are D8 to D10). -/
def Obligations.InitCompletes : Prop :=
  ∀ (r : Request) (s : State) (k : Nat) (as rest : List Answer), Ready (.init r) s →
    TransactionAcked [k] as → s.answers = as ++ rest →
    exec (.init r) s = .next (completed s 0#3 r [(0x40#8, k)] r.payload 0 as rest)

/-- `CLEAR` without failure: `S <C0 00 00 00 00> P`, no element of HOST's taken (42_commands.md sections
1 and 3; D7 to D10). -/
def Obligations.ClearCompletes : Prop :=
  ∀ (r : Request) (s : State) (k k0 k1 k2 k3 : Nat) (as rest : List Answer), Ready (.clear r) s →
    TransactionAcked [k, k0, k1, k2, k3] as → s.answers = as ++ rest →
    exec (.clear r) s = .next
      (completed s 1#3 r [(0xC0#8, k), (0#8, k0), (0#8, k1), (0#8, k2), (0#8, k3)] r.payload 0 as rest)

/-- `WRITE_RAW` without failure: the address command, every element unchanged in order, all taken, the
empty payload included (42_commands.md sections 1 and 4; D8 to D10, D18). -/
def Obligations.WriteRawCompletes : Prop :=
  ∀ (r : Request) (s : State) (k : Nat) (ks : List Nat) (as rest : List Answer), Ready (.writeRaw r) s →
    ks.length = r.payload.length → TransactionAcked (k :: ks) as → s.answers = as ++ rest →
    exec (.writeRaw r) s = .next
      (completed s 2#3 r ((0xC0#8 ||| (r.addr &&& 0x0F#8), k) :: r.payload.zip ks) []
        r.payload.length as rest)

/-- `WRITE_HEX` without failure: as `WRITE_RAW`, each element replaced by the ROM entry of its low four
bits (42_commands.md sections 1 and 5; D8 to D10, D18). -/
def Obligations.WriteHexCompletes : Prop :=
  ∀ (r : Request) (s : State) (k : Nat) (ks : List Nat) (as rest : List Answer), Ready (.writeHex r) s →
    ks.length = r.payload.length → TransactionAcked (k :: ks) as → s.answers = as ++ rest →
    exec (.writeHex r) s = .next
      (completed s 3#3 r ((0xC0#8 ||| (r.addr &&& 0x0F#8), k) ::
          (r.payload.map fun n => s.cfg.hexRom.toList.getD (n.toNat % 16) 0#8).zip ks) []
        r.payload.length as rest)

/-- `WRITE_CHARS` without failure, on a block with the letter table: as `WRITE_RAW`, each code replaced
by its pattern, the pattern `CHARACTER` returns (42_commands.md sections 1 and 6; D8 to D10, D18). -/
def Obligations.WriteCharsCompletes : Prop :=
  ∀ (r : Request) (s : State) (k : Nat) (ks : List Nat) (ps : List Byte) (as rest : List Answer),
    Ready (.writeChars r) s → ks.length = r.payload.length → ps.length = r.payload.length →
    (∀ (j : Nat) (c p : Byte), r.payload[j]? = some c → ps[j]? = some p →
      exec (.character c) s = .next { s with reply := .pattern p }) →
    TransactionAcked (k :: ks) as → s.answers = as ++ rest →
    exec (.writeChars r) s = .next
      (completed s 4#3 r ((0xC0#8 ||| (r.addr &&& 0x0F#8), k) :: ps.zip ks) [] r.payload.length as rest)

/-- `SET_BRIGHTNESS` without failure: `S <8x> P` with the low three bits of the level, no element taken
(42_commands.md sections 1 and 7; D8 to D10). -/
def Obligations.SetBrightnessCompletes : Prop :=
  ∀ (r : Request) (s : State) (k : Nat) (as rest : List Answer), Ready (.setBrightness r) s →
    TransactionAcked [k] as → s.answers = as ++ rest →
    exec (.setBrightness r) s = .next
      (completed s 5#3 r [(0x88#8 ||| (r.level &&& 0x07#8), k)] r.payload 0 as rest)

/-- Request codes 6 and 7 are refused: not accepted, no event, `PHASE` and `RESULT` and everything else
as they were; HOST is told (30_encoding.md section 6, the spec's decision D2; a next state and not a
stop: log entry 9). -/
def Obligations.ReservedCodesRefused : Prop :=
  ∀ (r : Request) (s : State),
    exec (.reservedOp6 r) s = .next { s with reply := .notAccepted }
      ∧ exec (.reservedOp7 r) s = .next { s with reply := .notAccepted }

/-- A request presented while `PHASE` is not Idle is not accepted and has no effect (10_state.md section
11, the spec's decision D21; log entry 9). -/
def Obligations.BusyRequestsRefused : Prop :=
  ∀ (i : Instr) (r : Request) (s : State), requestOf i = some r → s.phase ≠ .idle →
    exec i s = .next { s with reply := .notAccepted }

/-- No operand value is an error: an address above 15, a level above 7, a nibble above 15, a character with no mapping, a
payload of any length and a data write with no `INIT` before it raise nothing: when LINES acknowledges
every byte, each of the six operations ends in OK with exactly the bytes of its operands, masked
(60_exceptions.md section 3; STOP, the acknowledgement clock and the poll order are D8 to D10). -/
def Obligations.NoOperandIsAnError : Prop :=
  ∀ (i : Instr) (s : State) (cmd : Byte) (ds : List Byte) (ks : List Nat) (as rest : List Answer),
    wireBytes s.cfg i = some (cmd, ds) → Ready i s → ks.length = ds.length + 1 →
    TransactionAcked ks as → s.answers = as ++ rest →
    ∃ t, exec i s = .next t ∧ t.result = .ok ∧ t.reply = .ok
      ∧ t.events = s.events ++ traceTransaction (delayUs s.cfg) ((cmd :: ds).zip ks)

/-- Whatever LINES answers, an operation performs a beginning of its one transaction and ends in Idle
with one of three results: OK, when it performed all of it; the timeout, whose last events are 255 high
reads each with its delay; a line fault, whose last event is the failed access, everything before it
having completed (42_commands.md sections 1 and 8, 60_exceptions.md sections 1 and 2; D8 to D10, D15).
What an operation sends is `wireBytes` and `traceTransaction` of Safety.lean. -/
def Obligations.OperationIsBeginningOfTransaction : Prop :=
  ∀ (i : Instr) (s : State) (cmd : Byte) (ds : List Byte),
    wireBytes s.cfg i = some (cmd, ds) → Ready i s →
    ∃ t seg ks, exec i s = .next t ∧ t.events = s.events ++ seg ∧ t.phase = .idle ∧ t.todo = []
      ∧ t.resultKnown = true ∧ ks.length = ds.length + 1
      ∧ seg.filter isCompleted <+: traceTransaction (delayUs s.cfg) ((cmd :: ds).zip ks)
      ∧ (t.result = .ok →
          seg = traceTransaction (delayUs s.cfg) ((cmd :: ds).zip ks) ∧ ∀ k ∈ ks, k < 255)
      ∧ (t.result = .ackTimeout →
          (∀ e ∈ seg, isCompleted e = true) ∧ ∃ pre, seg = pre ++ traceHighs (delayUs s.cfg) 255)
      ∧ (∀ info, t.result = .lineFault info →
          ∃ pre a, seg = pre ++ [Event.failed a] ∧ ∀ e ∈ pre, isCompleted e = true)

/-- A byte that is not acknowledged aborts the operation: the events up to its 255th high read and no
stop, `RESULT` the timeout, `PHASE` Idle, both lines high, `BYTE_CNT` the bytes acknowledged before it,
and as many elements taken as data bytes were begun (60_exceptions.md sections 1 and 2, 42_commands.md
section 8; D9, D10, D15, D18). -/
def Obligations.UnacknowledgedByteAborts : Prop :=
  ∀ (i : Instr) (r : Request) (s : State) (cmd v : Byte) (ds : List Byte) (ks : List Nat)
    (a b c rest : List Answer),
    wireBytes s.cfg i = some (cmd, ds) → requestOf i = some r → Ready i s →
    (cmd :: ds)[ks.length]? = some v → Drives 4 a → BytesAcked ks b → ByteUnacked c →
    s.answers = a ++ b ++ c ++ rest →
    ∃ t, exec i s = .next t
      ∧ t.events = s.events ++ traceStart (delayUs s.cfg) ++ traceBytes (delayUs s.cfg) ((cmd :: ds).zip ks)
          ++ traceShift (delayUs s.cfg) v ++ traceHighs (delayUs s.cfg) 255
      ∧ t.result = .ackTimeout ∧ t.resultKnown = true ∧ t.phase = .idle ∧ t.reply = .raised .ackTimeout
      ∧ t.clkO = true ∧ t.clkKnown = true ∧ t.dioO = true ∧ t.dioKnown = true
      ∧ t.byteCnt = ks.length ∧ t.answers = rest
      ∧ t.taken = (if takesPayload i then ks.length else 0)
      ∧ t.payload = r.payload.drop (if takesPayload i then ks.length else 0)

/-- The frame of the requests: the configuration with its ROMs and what else is placed for the machine are
as they were; a request that is accepted loads `OP`, `ADDR` and `LEVEL` with its own, and one that is not
changes nothing but the reply (10_state.md sections 6, 7 and 11; the reply is log entry 12). -/
def Obligations.RequestFrame : Prop :=
  ∀ (i : Instr) (r : Request) (s t : State), requestOf i = some r → exec i s = .next t →
    t.cfg = s.cfg ∧ t.requests = s.requests ∧ t.calls = s.calls
      ∧ (t.reply = .notAccepted → t = { s with reply := .notAccepted })
      ∧ (t.reply ≠ .notAccepted →
          decodeRequest (t.op.setWidth 8) r = .instr i ∧ t.addr = r.addr ∧ t.level = r.level
            ∧ (takesPayload i = false → t.payload = r.payload ∧ t.taken = 0))

/-- Consumption of the payload by a write operation, whatever LINES answers: the elements taken are the
first `taken`, in order, and the rest is untouched; in success all of them; none when the command byte
was not acknowledged; `k + 1` when the data byte of element `k` was not (42_commands.md section 8, the
spec's decision D18). -/
def Obligations.PayloadConsumption : Prop :=
  ∀ (i : Instr) (r : Request) (s : State), takesPayload i = true → requestOf i = some r → Ready i s →
    ∃ t, exec i s = .next t ∧ t.taken ≤ r.payload.length ∧ t.payload = r.payload.drop t.taken
      ∧ (t.result = .ok → t.taken = r.payload.length ∧ t.byteCnt = r.payload.length + 1)
      ∧ (t.byteCnt = 0 → t.taken = 0)
      ∧ (0 < t.byteCnt → t.byteCnt ≤ r.payload.length → t.taken = t.byteCnt)
      ∧ t.byteCnt ≤ r.payload.length + 1

/-- `CLEAR` is `WRITE_RAW 0, [0, 0, 0, 0]`, whatever LINES answers: the two leave the same state but for
`OP`, `ADDR` and the payload with its count (42_commands.md section 3; 95_test_vectors.md E7). -/
def Obligations.ClearIsWriteRawOfZeros : Prop :=
  ∀ (r : Request) (s : State), ∃ t t', exec (.clear r) s = .next t
    ∧ exec (.writeRaw ⟨0#8, r.level, [0#8, 0#8, 0#8, 0#8]⟩) s = .next t'
    ∧ { t' with op := t.op, addr := t.addr, payload := t.payload, taken := t.taken } = t

/-- `WRITE_HEX` is `WRITE_RAW` of the `HEXDIGIT` patterns, and `WRITE_CHARS` of the `CHARACTER` patterns,
whatever LINES answers: the same state but for `OP` and the elements left (30_encoding.md section 7). -/
def Obligations.TranslatedWritesAreWriteRaw : Prop :=
  ∀ (r : Request) (s : State),
    (∃ t t', exec (.writeHex r) s = .next t
        ∧ exec (.writeRaw { r with payload := r.payload.map (hexPattern s.cfg) }) s = .next t'
        ∧ { t' with op := t.op, payload := t.payload } = t)
      ∧ (s.cfg.hasChar = true → ∃ t t', exec (.writeChars r) s = .next t
        ∧ exec (.writeRaw { r with payload := r.payload.map (charPattern s.cfg) }) s = .next t'
        ∧ { t' with op := t.op, payload := t.payload } = t)

/-- R109: the events of an operation, its result and what it takes depend on its own operands and payload,
the parameters and what LINES answers during it, on no earlier operation, result or line level; and CORE
performs no operation on its own initiative. What LINES answers is the same for both runs where the list of
answers supplies every one of them, however many accesses went before, and beyond the list where the access
numbers agree. -/
def Obligations.OperationsAreIndependent : Prop :=
  (∀ (i : Instr) (s s' t : State), (wireBytes s.cfg i).isSome → Ready i s → Ready i s' →
      s.cfg = s'.cfg → s.answers = s'.answers → exec i s = .next t →
      (s.accesses = s'.accesses ∨ t.accesses ≤ s.accesses + s.answers.length) →
      ∃ t' seg, exec i s' = .next t'
        ∧ t.events = s.events ++ seg ∧ t'.events = s'.events ++ seg
        ∧ t.result = t'.result ∧ t.reply = t'.reply ∧ t.taken = t'.taken ∧ t.payload = t'.payload
        ∧ t.byteCnt = t'.byteCnt ∧ t.answers = t'.answers)
    ∧ (∀ s : State, s.todo = [] → s.calls = [] → s.requests = [] → step s = .next s)

/-! Errors. -/

/-- Exactly two kinds of error, each raised by its own event and by nothing else: the timeout by a wait whose
255 reads all returned high, a line fault by the access that failed; and there is no third kind
(60_exceptions.md section 1; that the 255th read has its delay too is the poll order of D10). -/
def Obligations.TwoErrorsOnly : Prop :=
  ∀ (i : Instr) (s t : State) (e : Err), exec i s = .next t → t.reply = .raised e →
    ∃ pre seg, t.events = s.events ++ pre ++ seg
      ∧ ((e = .ackTimeout ∧ seg = traceHighs (delayUs s.cfg) 255)
        ∨ (∃ info a, e = .lineFault info ∧ seg = [.failed a]))

/-- R125: one event at a time, so an instruction reports the first error in event order and stops there:
a failed access is its last event. In the wait a failed read is a line fault whatever the poll count,
the 255th read included; a low read is success, the 255th included; 255 high reads are the timeout, and
nothing else is: where an instruction reports it, no access of it failed and its last 255 reads were all
high. -/
def Obligations.FirstErrorIsReported : Prop :=
  (∀ (i : Instr) (s t : State) (pre post : List Event) (a : Access), exec i s = .next t →
      t.events = s.events ++ pre ++ Event.failed a :: post →
      post = [] ∧ ∃ info, t.reply = .raised (.lineFault info))
    ∧ (∀ (v : Byte) (s : State) (ds rest : List Answer) (k : Nat) (info : Info), Drives 27 ds → k < 255 →
        s.answers = ds ++ List.replicate k (Answer.done true) ++ Answer.failed info :: rest →
        ∃ t, exec (.sendByte v) s = .next t ∧ t.reply = .raised (.lineFault info))
    ∧ (∀ (v : Byte) (s : State) (ds rest : List Answer), Drives 27 ds →
        s.answers = ds ++ List.replicate 255 (Answer.done true) ++ rest →
        ∃ t, exec (.sendByte v) s = .next t ∧ t.reply = .raised .ackTimeout)
    ∧ (∀ (v : Byte) (s : State) (ds rest : List Answer) (k : Nat), Drives 27 ds → k < 255 →
        s.answers = ds ++ List.replicate k (Answer.done true) ++ Answer.done false :: rest →
        ∃ t, exec (.sendByte v) s = .next t ∧ t.reply = .ok)
    ∧ (∀ (i : Instr) (s t : State), exec i s = .next t → t.reply = .raised .ackTimeout →
        ∃ seg, t.events = s.events ++ seg ∧ (∀ e ∈ seg, isCompleted e = true)
          ∧ List.replicate 255 (Event.dioRead true) <:+ seg.filter isDioRead)

/-- A line fault carries the failure value the pin reported with the access that failed, unchanged, into
the result of an operation and to its caller (60_exceptions.md section 1; the type of the value is D17
and log entry 13). -/
def Obligations.LineFaultCarriesPinValue : Prop :=
  ∀ (i : Instr) (s t : State) (info : Info), exec i s = .next t → t.reply = .raised (.lineFault info) →
    t.accesses ≤ s.accesses + s.answers.length →
    s.accesses < t.accesses ∧ s.answers[t.accesses - s.accesses - 1]? = some (.failed info)
      ∧ ((requestOf i).isSome → t.result = .lineFault info)

/-- No stop condition after an error: a device on the lines makes out none in the events of an operation
that did not end in OK (60_exceptions.md section 2; the reader is 95_test_vectors.md section 2; exclusive
lines are the premise of log entry 16). -/
def Obligations.NoStopAfterError : Prop :=
  ∀ (i : Instr) (s t : State) (seg : List Event), (wireBytes s.cfg i).isSome → Ready i s →
    exec i s = .next t → t.events = s.events ++ seg → t.result ≠ .ok → WireItem.stop ∉ readWire seg

/-- The line levels an operation's abort leaves: both high after the timeout and after a failed read; a
line whose drive failed holds no known value, and after a failed drive of DIO the level of CLK is known
(60_exceptions.md section 2, the spec's own derivation). -/
def Obligations.LineLevelsAfterAbort : Prop :=
  ∀ (i : Instr) (s t : State), (wireBytes s.cfg i).isSome → Ready i s → exec i s = .next t →
    (t.result = .ackTimeout →
        t.clkO = true ∧ t.clkKnown = true ∧ t.dioO = true ∧ t.dioKnown = true)
      ∧ (t.events.getLast? = some (.failed .read) →
        t.clkO = true ∧ t.clkKnown = true ∧ t.dioO = true ∧ t.dioKnown = true)
      ∧ (∀ b, t.events.getLast? = some (.failed (.clk b)) → t.clkKnown = false)
      ∧ (∀ b, t.events.getLast? = some (.failed (.dio b)) → t.dioKnown = false ∧ t.clkKnown = true)

/-! The wire. -/

/-- Whatever LINES answers, a device makes out of an operation a beginning of `S`, its bytes in order, `P`,
never other bytes and never another order; and it makes out all of it, the stop included, exactly when the
operation ends in OK (42_commands.md section 8, 60_exceptions.md section 2; the reader is 95_test_vectors.md
section 2; exclusive lines are the premise of log entry 16). -/
def Obligations.DeviceReadsTheBytes : Prop :=
  ∀ (i : Instr) (s t : State) (cmd : Byte) (ds : List Byte) (seg : List Event),
    wireBytes s.cfg i = some (cmd, ds) → Ready i s → exec i s = .next t → t.events = s.events ++ seg →
    readWire seg <+: [WireItem.start, .byte cmd] ++ ds.map WireItem.byte ++ [WireItem.stop]
      ∧ (t.result = .ok ↔
          readWire seg = [WireItem.start, .byte cmd] ++ ds.map WireItem.byte ++ [WireItem.stop])

/-- In an operation that ends in OK, DIO is changed while CLK is high exactly twice: the fall of the
start condition and the rise of the stop condition, whatever the levels before; and between them CLK
rises nine times a byte and once more (41_transport.md section 6, the spec's own derivation; exclusive
lines are the premise of log entry 16). -/
def Obligations.OneStartOneStopEdge : Prop :=
  ∀ (i : Instr) (s t : State) (cmd : Byte) (ds : List Byte) (seg : List Event) (clk dio : Level),
    wireBytes s.cfg i = some (cmd, ds) → Ready i s → exec i s = .next t →
    t.result = .ok → t.events = s.events ++ seg →
    edgesFrom clk dio seg = [false, true]
      ∧ ∃ rest, seg = traceStart (delayUs s.cfg) ++ rest ∧ risingFrom true rest = 9 * (ds.length + 1) + 1

/-- An operation that ends in OK is read by a device as one transaction with exactly its command byte and
data bytes, and leaves both lines high and `BYTE_CNT` the number of its bytes (42_commands.md section 8,
10_state.md sections 2 and 3; exclusive lines are the premise of log entry 16). -/
def Obligations.DeviceReadsTheOperation : Prop :=
  ∀ (i : Instr) (s t : State) (cmd : Byte) (ds : List Byte) (seg : List Event),
    wireBytes s.cfg i = some (cmd, ds) → Ready i s → exec i s = .next t →
    t.result = .ok → t.events = s.events ++ seg →
    readWire seg = [WireItem.start, .byte cmd] ++ ds.map WireItem.byte ++ [WireItem.stop]
      ∧ t.byteCnt = ds.length + 1
      ∧ t.clkO = true ∧ t.clkKnown = true ∧ t.dioO = true ∧ t.dioKnown = true

/-! The machine at the grain of events. -/

/-- `exec` of a request is the event-grain machine run to the end of the operation: presenting the
request and ticking reaches exactly the state `exec` answers, for every code, operand and answer, the
refused codes included (20_memory.md section 6, the spec's decision D23; log entry 2). -/
def Obligations.ExecIsTicksToTheEnd : Prop :=
  ∀ (op : BitVec 3) (r : Request) (i : Instr) (s : State),
    decodeRequest (op.setWidth 8) r = .instr i → s.phase = .idle → s.todo = [] →
    ∃ n t, exec i s = .next t ∧ ticks n (present op r s) = t ∧ t.todo = []
      ∧ ∀ m, m ≤ n → ∃ later, t.events = (ticks m (present op r s)).events ++ later

/-- One event as one step: a step with nothing placed to be run whole, and a tick, adds at most one event to
the history and takes none back (20_memory.md section 6, the spec's decision D23; steps without an event are
the micro-operations of log entry 2). -/
def Obligations.TickMakesOneEvent : Prop :=
  (∀ s : State, ∃ es, (tick s).events = s.events ++ es ∧ es.length ≤ 1)
    ∧ (∀ s t : State, s.calls = [] → step s = .next t → ∃ es, t.events = s.events ++ es ∧ es.length ≤ 1)

/-- `RESULT` is written only at the moment `PHASE` returns to Idle: a step of an operation that changes it
finds `PHASE` in Start, Transfer or Stop and leaves it in Idle (10_state.md section 5; that `RESULT` is kept
until then is log entry 21, the model's reading). -/
def Obligations.ResultWrittenAtReturnToIdle : Prop :=
  ∀ s : State, Inv s → (advance s).result ≠ s.result ∨ (advance s).resultKnown ≠ s.resultKnown →
    s.phase ≠ .idle ∧ (advance s).phase = .idle ∧ (advance s).resultKnown = true

/-- How `PHASE` moves: Idle to Start when HOST's request is accepted, Start to Transfer, Transfer to Stop,
Stop to Idle in success, and from any of the three to Idle with an error (10_state.md section 3,
42_commands.md section 1, 60_exceptions.md section 2 with D15; one event a step is D23, the micro-operations
log entry 2). -/
def Obligations.PhaseMoves : Prop :=
  ∀ s : State, Inv s →
    (advance s).phase = s.phase
      ∨ (s.phase = .idle ∧ (advance s).phase = .start ∧ (∃ q, s.requests = q :: (advance s).requests)
          ∧ (advance s).byteCnt = 0)
      ∨ (s.phase = .start ∧ (advance s).phase = .transfer)
      ∨ (s.phase = .transfer ∧ (advance s).phase = .stop)
      ∨ (s.phase = .stop ∧ (advance s).phase = .idle ∧ (advance s).result = .ok
          ∧ (advance s).resultKnown = true)
      ∨ (s.phase ≠ .idle ∧ (advance s).phase = .idle ∧ (advance s).result ≠ .ok
          ∧ (advance s).resultKnown = true ∧ (advance s).todo = [])

/-- The control-and-status view, busy or not and `RESULT`: not busy with no result at reset; busy exactly
while an operation is in progress; after an operation not busy with its result, whose code is 0 for success,
1 for the timeout and 2 for a line fault with the pin's value, never 3 (10_state.md section 8, 60_exceptions.md
section 1; the codes are the spec's decision D13, the list of what is left is log entry 2). -/
def Obligations.StatusView : Prop :=
  statusView State.reset = (false, none)
    ∧ (∀ s : State, Inv s → ((statusView s).1 = true ↔ s.todo ≠ []))
    ∧ (∀ (i : Instr) (s t : State), (wireBytes s.cfg i).isSome → Ready i s → exec i s = .next t →
        statusView t = (false, some t.result)
          ∧ (t.reply = .ok ↔ resultCode t.result = 0#2)
          ∧ (t.reply = .raised .ackTimeout ↔ resultCode t.result = 1#2)
          ∧ (∀ info, t.reply = .raised (.lineFault info) ↔
              resultCode t.result = 2#2 ∧ resultInfo t.result = some info)
          ∧ resultCode t.result ≠ 3#2 ∧ (resultCode t.result ≠ 2#2 → resultInfo t.result = none))

/-! Reset and the invariant. -/

/-- What reset leaves: Idle, no event, no known line level, no result, HOST's list empty, and the three hex
patterns the source gives (10_state.md section 10, the spec's decision D14); LINES' list and what is placed
are empty too, which is the model's (log entries 3 and 17). The named values of the latches and registers
are not part of this statement (log entries 4 and 5). -/
def Obligations.ResetLeaves : Prop :=
  State.reset.phase = .idle ∧ State.reset.events = [] ∧ State.reset.clkKnown = false
    ∧ State.reset.dioKnown = false ∧ State.reset.resultKnown = false ∧ State.reset.todo = []
    ∧ State.reset.requests = [] ∧ State.reset.calls = [] ∧ State.reset.answers = []
    ∧ State.reset.cfg.hexRom.toList[0]? = some 0x3F#8 ∧ State.reset.cfg.hexRom.toList[1]? = some 0x06#8
    ∧ State.reset.cfg.hexRom.toList[15]? = some 0x71#8 ∧ delayUs State.reset.cfg = 1
    ∧ step State.reset = .next State.reset

/-- The invariant holds at reset; it rests on no value the model names for reset, but on Idle, on the known
flags being false and on nothing being left to do (10_state.md section 10, D14; what is left is the model's
own, log entry 2). -/
def Obligations.InvariantAtReset : Prop := Inv State.reset

/-- Every step keeps the invariant: `PHASE` tells what is left of the operation (in Idle nothing, in Start an
end of the start condition and then the rest, in Transfer no change of phase before the stop condition, in
Stop an end of the stop condition and the return to Idle); each latch tells the last completed drive of its
line; every delay is one bit period (10_state.md sections 1 to 3, 42_commands.md section 1, 41_transport.md
section 1; what is left and its micro-operations are the model's own, log entry 2). -/
def Obligations.StepKeepsInvariant : Prop :=
  ∀ s t : State, Inv s → step s = .next t → Inv t

/-- The counter of accesses counts the drives and reads of a step, and each used one answer of LINES, the
oldest first, from every value of the counter (the counter and the list are the model's own, log entry 3;
60_exceptions.md section 7 for the accesses). -/
def Obligations.AccessesAreCounted : Prop :=
  ∀ s t : State, step s = .next t → ∃ seg, t.events = s.events ++ seg
    ∧ t.accesses = s.accesses + seg.countP isAccess ∧ t.answers = s.answers.drop (seg.countP isAccess)

/-- No step writes a ROM or changes a parameter, and the history only grows (10_state.md section 7,
20_memory.md section 6; the ROMs stand in the configuration record, log entry 19). -/
def Obligations.StepNeverWritesRoms : Prop :=
  ∀ s t : State, step s = .next t →
    t.cfg.hexRom = s.cfg.hexRom ∧ t.cfg.letterRom = s.cfg.letterRom ∧ t.cfg = s.cfg ∧ s.events <+: t.events
end

