-- ==== Sys2Proof/Laws/State.lean ====
section
/-! SUPPORT. One lemma per field per update of the state, so that no later proof unfolds an update. -/

namespace Sys2Proof.Machine

variable (s : State)

/-! The history grows by one event (R38). -/

@[simp] theorem record_cfg (e : Event) : (s.record e).cfg = s.cfg := rfl
@[simp] theorem record_clkO (e : Event) : (s.record e).clkO = s.clkO := rfl
@[simp] theorem record_clkKnown (e : Event) : (s.record e).clkKnown = s.clkKnown := rfl
@[simp] theorem record_dioO (e : Event) : (s.record e).dioO = s.dioO := rfl
@[simp] theorem record_dioKnown (e : Event) : (s.record e).dioKnown = s.dioKnown := rfl
@[simp] theorem record_phase (e : Event) : (s.record e).phase = s.phase := rfl
@[simp] theorem record_op (e : Event) : (s.record e).op = s.op := rfl
@[simp] theorem record_addr (e : Event) : (s.record e).addr = s.addr := rfl
@[simp] theorem record_level (e : Event) : (s.record e).level = s.level := rfl
@[simp] theorem record_byteCnt (e : Event) : (s.record e).byteCnt = s.byteCnt := rfl
@[simp] theorem record_shreg (e : Event) : (s.record e).shreg = s.shreg := rfl
@[simp] theorem record_bitCnt (e : Event) : (s.record e).bitCnt = s.bitCnt := rfl
@[simp] theorem record_pollCnt (e : Event) : (s.record e).pollCnt = s.pollCnt := rfl
@[simp] theorem record_result (e : Event) : (s.record e).result = s.result := rfl
@[simp] theorem record_resultKnown (e : Event) : (s.record e).resultKnown = s.resultKnown := rfl
@[simp] theorem record_reply (e : Event) : (s.record e).reply = s.reply := rfl
@[simp] theorem record_todo (e : Event) : (s.record e).todo = s.todo := rfl
@[simp] theorem record_requests (e : Event) : (s.record e).requests = s.requests := rfl
@[simp] theorem record_calls (e : Event) : (s.record e).calls = s.calls := rfl
@[simp] theorem record_payload (e : Event) : (s.record e).payload = s.payload := rfl
@[simp] theorem record_taken (e : Event) : (s.record e).taken = s.taken := rfl
@[simp] theorem record_answers (e : Event) : (s.record e).answers = s.answers := rfl
@[simp] theorem record_accesses (e : Event) : (s.record e).accesses = s.accesses := rfl
@[simp] theorem record_events (e : Event) : (s.record e).events = s.events ++ [e] := rfl

/-! An access uses one answer (R13). -/

@[simp] theorem tookAnswer_cfg : s.tookAnswer.cfg = s.cfg := rfl
@[simp] theorem tookAnswer_clkO : s.tookAnswer.clkO = s.clkO := rfl
@[simp] theorem tookAnswer_clkKnown : s.tookAnswer.clkKnown = s.clkKnown := rfl
@[simp] theorem tookAnswer_dioO : s.tookAnswer.dioO = s.dioO := rfl
@[simp] theorem tookAnswer_dioKnown : s.tookAnswer.dioKnown = s.dioKnown := rfl
@[simp] theorem tookAnswer_phase : s.tookAnswer.phase = s.phase := rfl
@[simp] theorem tookAnswer_op : s.tookAnswer.op = s.op := rfl
@[simp] theorem tookAnswer_addr : s.tookAnswer.addr = s.addr := rfl
@[simp] theorem tookAnswer_level : s.tookAnswer.level = s.level := rfl
@[simp] theorem tookAnswer_byteCnt : s.tookAnswer.byteCnt = s.byteCnt := rfl
@[simp] theorem tookAnswer_shreg : s.tookAnswer.shreg = s.shreg := rfl
@[simp] theorem tookAnswer_bitCnt : s.tookAnswer.bitCnt = s.bitCnt := rfl
@[simp] theorem tookAnswer_pollCnt : s.tookAnswer.pollCnt = s.pollCnt := rfl
@[simp] theorem tookAnswer_result : s.tookAnswer.result = s.result := rfl
@[simp] theorem tookAnswer_resultKnown : s.tookAnswer.resultKnown = s.resultKnown := rfl
@[simp] theorem tookAnswer_reply : s.tookAnswer.reply = s.reply := rfl
@[simp] theorem tookAnswer_todo : s.tookAnswer.todo = s.todo := rfl
@[simp] theorem tookAnswer_requests : s.tookAnswer.requests = s.requests := rfl
@[simp] theorem tookAnswer_calls : s.tookAnswer.calls = s.calls := rfl
@[simp] theorem tookAnswer_payload : s.tookAnswer.payload = s.payload := rfl
@[simp] theorem tookAnswer_taken : s.tookAnswer.taken = s.taken := rfl
@[simp] theorem tookAnswer_answers : s.tookAnswer.answers = s.answers.tail := rfl
@[simp] theorem tookAnswer_accesses : s.tookAnswer.accesses = s.accesses + 1 := rfl
@[simp] theorem tookAnswer_events : s.tookAnswer.events = s.events := rfl

/-! A drive of CLK writes its latch alone (R11). -/

@[simp] theorem setClk_cfg (b : Level) (k : Bool) : (s.setClk b k).cfg = s.cfg := rfl
@[simp] theorem setClk_clkO (b : Level) (k : Bool) : (s.setClk b k).clkO = b := rfl
@[simp] theorem setClk_clkKnown (b : Level) (k : Bool) : (s.setClk b k).clkKnown = k := rfl
@[simp] theorem setClk_dioO (b : Level) (k : Bool) : (s.setClk b k).dioO = s.dioO := rfl
@[simp] theorem setClk_dioKnown (b : Level) (k : Bool) : (s.setClk b k).dioKnown = s.dioKnown := rfl
@[simp] theorem setClk_phase (b : Level) (k : Bool) : (s.setClk b k).phase = s.phase := rfl
@[simp] theorem setClk_op (b : Level) (k : Bool) : (s.setClk b k).op = s.op := rfl
@[simp] theorem setClk_addr (b : Level) (k : Bool) : (s.setClk b k).addr = s.addr := rfl
@[simp] theorem setClk_level (b : Level) (k : Bool) : (s.setClk b k).level = s.level := rfl
@[simp] theorem setClk_byteCnt (b : Level) (k : Bool) : (s.setClk b k).byteCnt = s.byteCnt := rfl
@[simp] theorem setClk_shreg (b : Level) (k : Bool) : (s.setClk b k).shreg = s.shreg := rfl
@[simp] theorem setClk_bitCnt (b : Level) (k : Bool) : (s.setClk b k).bitCnt = s.bitCnt := rfl
@[simp] theorem setClk_pollCnt (b : Level) (k : Bool) : (s.setClk b k).pollCnt = s.pollCnt := rfl
@[simp] theorem setClk_result (b : Level) (k : Bool) : (s.setClk b k).result = s.result := rfl
@[simp] theorem setClk_resultKnown (b : Level) (k : Bool) : (s.setClk b k).resultKnown = s.resultKnown := rfl
@[simp] theorem setClk_reply (b : Level) (k : Bool) : (s.setClk b k).reply = s.reply := rfl
@[simp] theorem setClk_todo (b : Level) (k : Bool) : (s.setClk b k).todo = s.todo := rfl
@[simp] theorem setClk_requests (b : Level) (k : Bool) : (s.setClk b k).requests = s.requests := rfl
@[simp] theorem setClk_calls (b : Level) (k : Bool) : (s.setClk b k).calls = s.calls := rfl
@[simp] theorem setClk_payload (b : Level) (k : Bool) : (s.setClk b k).payload = s.payload := rfl
@[simp] theorem setClk_taken (b : Level) (k : Bool) : (s.setClk b k).taken = s.taken := rfl
@[simp] theorem setClk_answers (b : Level) (k : Bool) : (s.setClk b k).answers = s.answers := rfl
@[simp] theorem setClk_accesses (b : Level) (k : Bool) : (s.setClk b k).accesses = s.accesses := rfl
@[simp] theorem setClk_events (b : Level) (k : Bool) : (s.setClk b k).events = s.events := rfl

/-! A drive of DIO writes its latch alone (R12). -/

@[simp] theorem setDio_cfg (b : Level) (k : Bool) : (s.setDio b k).cfg = s.cfg := rfl
@[simp] theorem setDio_clkO (b : Level) (k : Bool) : (s.setDio b k).clkO = s.clkO := rfl
@[simp] theorem setDio_clkKnown (b : Level) (k : Bool) : (s.setDio b k).clkKnown = s.clkKnown := rfl
@[simp] theorem setDio_dioO (b : Level) (k : Bool) : (s.setDio b k).dioO = b := rfl
@[simp] theorem setDio_dioKnown (b : Level) (k : Bool) : (s.setDio b k).dioKnown = k := rfl
@[simp] theorem setDio_phase (b : Level) (k : Bool) : (s.setDio b k).phase = s.phase := rfl
@[simp] theorem setDio_op (b : Level) (k : Bool) : (s.setDio b k).op = s.op := rfl
@[simp] theorem setDio_addr (b : Level) (k : Bool) : (s.setDio b k).addr = s.addr := rfl
@[simp] theorem setDio_level (b : Level) (k : Bool) : (s.setDio b k).level = s.level := rfl
@[simp] theorem setDio_byteCnt (b : Level) (k : Bool) : (s.setDio b k).byteCnt = s.byteCnt := rfl
@[simp] theorem setDio_shreg (b : Level) (k : Bool) : (s.setDio b k).shreg = s.shreg := rfl
@[simp] theorem setDio_bitCnt (b : Level) (k : Bool) : (s.setDio b k).bitCnt = s.bitCnt := rfl
@[simp] theorem setDio_pollCnt (b : Level) (k : Bool) : (s.setDio b k).pollCnt = s.pollCnt := rfl
@[simp] theorem setDio_result (b : Level) (k : Bool) : (s.setDio b k).result = s.result := rfl
@[simp] theorem setDio_resultKnown (b : Level) (k : Bool) : (s.setDio b k).resultKnown = s.resultKnown := rfl
@[simp] theorem setDio_reply (b : Level) (k : Bool) : (s.setDio b k).reply = s.reply := rfl
@[simp] theorem setDio_todo (b : Level) (k : Bool) : (s.setDio b k).todo = s.todo := rfl
@[simp] theorem setDio_requests (b : Level) (k : Bool) : (s.setDio b k).requests = s.requests := rfl
@[simp] theorem setDio_calls (b : Level) (k : Bool) : (s.setDio b k).calls = s.calls := rfl
@[simp] theorem setDio_payload (b : Level) (k : Bool) : (s.setDio b k).payload = s.payload := rfl
@[simp] theorem setDio_taken (b : Level) (k : Bool) : (s.setDio b k).taken = s.taken := rfl
@[simp] theorem setDio_answers (b : Level) (k : Bool) : (s.setDio b k).answers = s.answers := rfl
@[simp] theorem setDio_accesses (b : Level) (k : Bool) : (s.setDio b k).accesses = s.accesses := rfl
@[simp] theorem setDio_events (b : Level) (k : Bool) : (s.setDio b k).events = s.events := rfl

/-! `PHASE <- p` (R14). -/

@[simp] theorem setPhase_cfg (p : Phase) : (s.setPhase p).cfg = s.cfg := rfl
@[simp] theorem setPhase_clkO (p : Phase) : (s.setPhase p).clkO = s.clkO := rfl
@[simp] theorem setPhase_clkKnown (p : Phase) : (s.setPhase p).clkKnown = s.clkKnown := rfl
@[simp] theorem setPhase_dioO (p : Phase) : (s.setPhase p).dioO = s.dioO := rfl
@[simp] theorem setPhase_dioKnown (p : Phase) : (s.setPhase p).dioKnown = s.dioKnown := rfl
@[simp] theorem setPhase_phase (p : Phase) : (s.setPhase p).phase = p := rfl
@[simp] theorem setPhase_op (p : Phase) : (s.setPhase p).op = s.op := rfl
@[simp] theorem setPhase_addr (p : Phase) : (s.setPhase p).addr = s.addr := rfl
@[simp] theorem setPhase_level (p : Phase) : (s.setPhase p).level = s.level := rfl
@[simp] theorem setPhase_byteCnt (p : Phase) : (s.setPhase p).byteCnt = s.byteCnt := rfl
@[simp] theorem setPhase_shreg (p : Phase) : (s.setPhase p).shreg = s.shreg := rfl
@[simp] theorem setPhase_bitCnt (p : Phase) : (s.setPhase p).bitCnt = s.bitCnt := rfl
@[simp] theorem setPhase_pollCnt (p : Phase) : (s.setPhase p).pollCnt = s.pollCnt := rfl
@[simp] theorem setPhase_result (p : Phase) : (s.setPhase p).result = s.result := rfl
@[simp] theorem setPhase_resultKnown (p : Phase) : (s.setPhase p).resultKnown = s.resultKnown := rfl
@[simp] theorem setPhase_reply (p : Phase) : (s.setPhase p).reply = s.reply := rfl
@[simp] theorem setPhase_todo (p : Phase) : (s.setPhase p).todo = s.todo := rfl
@[simp] theorem setPhase_requests (p : Phase) : (s.setPhase p).requests = s.requests := rfl
@[simp] theorem setPhase_calls (p : Phase) : (s.setPhase p).calls = s.calls := rfl
@[simp] theorem setPhase_payload (p : Phase) : (s.setPhase p).payload = s.payload := rfl
@[simp] theorem setPhase_taken (p : Phase) : (s.setPhase p).taken = s.taken := rfl
@[simp] theorem setPhase_answers (p : Phase) : (s.setPhase p).answers = s.answers := rfl
@[simp] theorem setPhase_accesses (p : Phase) : (s.setPhase p).accesses = s.accesses := rfl
@[simp] theorem setPhase_events (p : Phase) : (s.setPhase p).events = s.events := rfl

/-! `BYTE_CNT <- n` (R15). -/

@[simp] theorem setByteCnt_cfg (n : Nat) : (s.setByteCnt n).cfg = s.cfg := rfl
@[simp] theorem setByteCnt_clkO (n : Nat) : (s.setByteCnt n).clkO = s.clkO := rfl
@[simp] theorem setByteCnt_clkKnown (n : Nat) : (s.setByteCnt n).clkKnown = s.clkKnown := rfl
@[simp] theorem setByteCnt_dioO (n : Nat) : (s.setByteCnt n).dioO = s.dioO := rfl
@[simp] theorem setByteCnt_dioKnown (n : Nat) : (s.setByteCnt n).dioKnown = s.dioKnown := rfl
@[simp] theorem setByteCnt_phase (n : Nat) : (s.setByteCnt n).phase = s.phase := rfl
@[simp] theorem setByteCnt_op (n : Nat) : (s.setByteCnt n).op = s.op := rfl
@[simp] theorem setByteCnt_addr (n : Nat) : (s.setByteCnt n).addr = s.addr := rfl
@[simp] theorem setByteCnt_level (n : Nat) : (s.setByteCnt n).level = s.level := rfl
@[simp] theorem setByteCnt_byteCnt (n : Nat) : (s.setByteCnt n).byteCnt = n := rfl
@[simp] theorem setByteCnt_shreg (n : Nat) : (s.setByteCnt n).shreg = s.shreg := rfl
@[simp] theorem setByteCnt_bitCnt (n : Nat) : (s.setByteCnt n).bitCnt = s.bitCnt := rfl
@[simp] theorem setByteCnt_pollCnt (n : Nat) : (s.setByteCnt n).pollCnt = s.pollCnt := rfl
@[simp] theorem setByteCnt_result (n : Nat) : (s.setByteCnt n).result = s.result := rfl
@[simp] theorem setByteCnt_resultKnown (n : Nat) : (s.setByteCnt n).resultKnown = s.resultKnown := rfl
@[simp] theorem setByteCnt_reply (n : Nat) : (s.setByteCnt n).reply = s.reply := rfl
@[simp] theorem setByteCnt_todo (n : Nat) : (s.setByteCnt n).todo = s.todo := rfl
@[simp] theorem setByteCnt_requests (n : Nat) : (s.setByteCnt n).requests = s.requests := rfl
@[simp] theorem setByteCnt_calls (n : Nat) : (s.setByteCnt n).calls = s.calls := rfl
@[simp] theorem setByteCnt_payload (n : Nat) : (s.setByteCnt n).payload = s.payload := rfl
@[simp] theorem setByteCnt_taken (n : Nat) : (s.setByteCnt n).taken = s.taken := rfl
@[simp] theorem setByteCnt_answers (n : Nat) : (s.setByteCnt n).answers = s.answers := rfl
@[simp] theorem setByteCnt_accesses (n : Nat) : (s.setByteCnt n).accesses = s.accesses := rfl
@[simp] theorem setByteCnt_events (n : Nat) : (s.setByteCnt n).events = s.events := rfl

/-! `SHREG <- v; BIT_CNT <- 0` (R16, R17). -/

@[simp] theorem loadByte_cfg (v : Byte) : (s.loadByte v).cfg = s.cfg := rfl
@[simp] theorem loadByte_clkO (v : Byte) : (s.loadByte v).clkO = s.clkO := rfl
@[simp] theorem loadByte_clkKnown (v : Byte) : (s.loadByte v).clkKnown = s.clkKnown := rfl
@[simp] theorem loadByte_dioO (v : Byte) : (s.loadByte v).dioO = s.dioO := rfl
@[simp] theorem loadByte_dioKnown (v : Byte) : (s.loadByte v).dioKnown = s.dioKnown := rfl
@[simp] theorem loadByte_phase (v : Byte) : (s.loadByte v).phase = s.phase := rfl
@[simp] theorem loadByte_op (v : Byte) : (s.loadByte v).op = s.op := rfl
@[simp] theorem loadByte_addr (v : Byte) : (s.loadByte v).addr = s.addr := rfl
@[simp] theorem loadByte_level (v : Byte) : (s.loadByte v).level = s.level := rfl
@[simp] theorem loadByte_byteCnt (v : Byte) : (s.loadByte v).byteCnt = s.byteCnt := rfl
@[simp] theorem loadByte_shreg (v : Byte) : (s.loadByte v).shreg = v := rfl
@[simp] theorem loadByte_bitCnt (v : Byte) : (s.loadByte v).bitCnt = 0#4 := rfl
@[simp] theorem loadByte_pollCnt (v : Byte) : (s.loadByte v).pollCnt = s.pollCnt := rfl
@[simp] theorem loadByte_result (v : Byte) : (s.loadByte v).result = s.result := rfl
@[simp] theorem loadByte_resultKnown (v : Byte) : (s.loadByte v).resultKnown = s.resultKnown := rfl
@[simp] theorem loadByte_reply (v : Byte) : (s.loadByte v).reply = s.reply := rfl
@[simp] theorem loadByte_todo (v : Byte) : (s.loadByte v).todo = s.todo := rfl
@[simp] theorem loadByte_requests (v : Byte) : (s.loadByte v).requests = s.requests := rfl
@[simp] theorem loadByte_calls (v : Byte) : (s.loadByte v).calls = s.calls := rfl
@[simp] theorem loadByte_payload (v : Byte) : (s.loadByte v).payload = s.payload := rfl
@[simp] theorem loadByte_taken (v : Byte) : (s.loadByte v).taken = s.taken := rfl
@[simp] theorem loadByte_answers (v : Byte) : (s.loadByte v).answers = s.answers := rfl
@[simp] theorem loadByte_accesses (v : Byte) : (s.loadByte v).accesses = s.accesses := rfl
@[simp] theorem loadByte_events (v : Byte) : (s.loadByte v).events = s.events := rfl

/-! `SHREG <- SHREG >> 1; BIT_CNT <- BIT_CNT + 1` (R16, R17). -/

@[simp] theorem shiftByte_cfg : s.shiftByte.cfg = s.cfg := rfl
@[simp] theorem shiftByte_clkO : s.shiftByte.clkO = s.clkO := rfl
@[simp] theorem shiftByte_clkKnown : s.shiftByte.clkKnown = s.clkKnown := rfl
@[simp] theorem shiftByte_dioO : s.shiftByte.dioO = s.dioO := rfl
@[simp] theorem shiftByte_dioKnown : s.shiftByte.dioKnown = s.dioKnown := rfl
@[simp] theorem shiftByte_phase : s.shiftByte.phase = s.phase := rfl
@[simp] theorem shiftByte_op : s.shiftByte.op = s.op := rfl
@[simp] theorem shiftByte_addr : s.shiftByte.addr = s.addr := rfl
@[simp] theorem shiftByte_level : s.shiftByte.level = s.level := rfl
@[simp] theorem shiftByte_byteCnt : s.shiftByte.byteCnt = s.byteCnt := rfl
@[simp] theorem shiftByte_shreg : s.shiftByte.shreg = s.shreg >>> 1 := rfl
@[simp] theorem shiftByte_bitCnt : s.shiftByte.bitCnt = s.bitCnt + 1#4 := rfl
@[simp] theorem shiftByte_pollCnt : s.shiftByte.pollCnt = s.pollCnt := rfl
@[simp] theorem shiftByte_result : s.shiftByte.result = s.result := rfl
@[simp] theorem shiftByte_resultKnown : s.shiftByte.resultKnown = s.resultKnown := rfl
@[simp] theorem shiftByte_reply : s.shiftByte.reply = s.reply := rfl
@[simp] theorem shiftByte_todo : s.shiftByte.todo = s.todo := rfl
@[simp] theorem shiftByte_requests : s.shiftByte.requests = s.requests := rfl
@[simp] theorem shiftByte_calls : s.shiftByte.calls = s.calls := rfl
@[simp] theorem shiftByte_payload : s.shiftByte.payload = s.payload := rfl
@[simp] theorem shiftByte_taken : s.shiftByte.taken = s.taken := rfl
@[simp] theorem shiftByte_answers : s.shiftByte.answers = s.answers := rfl
@[simp] theorem shiftByte_accesses : s.shiftByte.accesses = s.accesses := rfl
@[simp] theorem shiftByte_events : s.shiftByte.events = s.events := rfl

/-! `POLL_CNT <- n` (R18). -/

@[simp] theorem setPollCnt_cfg (n : BitVec 8) : (s.setPollCnt n).cfg = s.cfg := rfl
@[simp] theorem setPollCnt_clkO (n : BitVec 8) : (s.setPollCnt n).clkO = s.clkO := rfl
@[simp] theorem setPollCnt_clkKnown (n : BitVec 8) : (s.setPollCnt n).clkKnown = s.clkKnown := rfl
@[simp] theorem setPollCnt_dioO (n : BitVec 8) : (s.setPollCnt n).dioO = s.dioO := rfl
@[simp] theorem setPollCnt_dioKnown (n : BitVec 8) : (s.setPollCnt n).dioKnown = s.dioKnown := rfl
@[simp] theorem setPollCnt_phase (n : BitVec 8) : (s.setPollCnt n).phase = s.phase := rfl
@[simp] theorem setPollCnt_op (n : BitVec 8) : (s.setPollCnt n).op = s.op := rfl
@[simp] theorem setPollCnt_addr (n : BitVec 8) : (s.setPollCnt n).addr = s.addr := rfl
@[simp] theorem setPollCnt_level (n : BitVec 8) : (s.setPollCnt n).level = s.level := rfl
@[simp] theorem setPollCnt_byteCnt (n : BitVec 8) : (s.setPollCnt n).byteCnt = s.byteCnt := rfl
@[simp] theorem setPollCnt_shreg (n : BitVec 8) : (s.setPollCnt n).shreg = s.shreg := rfl
@[simp] theorem setPollCnt_bitCnt (n : BitVec 8) : (s.setPollCnt n).bitCnt = s.bitCnt := rfl
@[simp] theorem setPollCnt_pollCnt (n : BitVec 8) : (s.setPollCnt n).pollCnt = n := rfl
@[simp] theorem setPollCnt_result (n : BitVec 8) : (s.setPollCnt n).result = s.result := rfl
@[simp] theorem setPollCnt_resultKnown (n : BitVec 8) : (s.setPollCnt n).resultKnown = s.resultKnown := rfl
@[simp] theorem setPollCnt_reply (n : BitVec 8) : (s.setPollCnt n).reply = s.reply := rfl
@[simp] theorem setPollCnt_todo (n : BitVec 8) : (s.setPollCnt n).todo = s.todo := rfl
@[simp] theorem setPollCnt_requests (n : BitVec 8) : (s.setPollCnt n).requests = s.requests := rfl
@[simp] theorem setPollCnt_calls (n : BitVec 8) : (s.setPollCnt n).calls = s.calls := rfl
@[simp] theorem setPollCnt_payload (n : BitVec 8) : (s.setPollCnt n).payload = s.payload := rfl
@[simp] theorem setPollCnt_taken (n : BitVec 8) : (s.setPollCnt n).taken = s.taken := rfl
@[simp] theorem setPollCnt_answers (n : BitVec 8) : (s.setPollCnt n).answers = s.answers := rfl
@[simp] theorem setPollCnt_accesses (n : BitVec 8) : (s.setPollCnt n).accesses = s.accesses := rfl
@[simp] theorem setPollCnt_events (n : BitVec 8) : (s.setPollCnt n).events = s.events := rfl

/-! The value given back (log entry 12). -/

@[simp] theorem setReply_cfg (r : Reply) : (s.setReply r).cfg = s.cfg := rfl
@[simp] theorem setReply_clkO (r : Reply) : (s.setReply r).clkO = s.clkO := rfl
@[simp] theorem setReply_clkKnown (r : Reply) : (s.setReply r).clkKnown = s.clkKnown := rfl
@[simp] theorem setReply_dioO (r : Reply) : (s.setReply r).dioO = s.dioO := rfl
@[simp] theorem setReply_dioKnown (r : Reply) : (s.setReply r).dioKnown = s.dioKnown := rfl
@[simp] theorem setReply_phase (r : Reply) : (s.setReply r).phase = s.phase := rfl
@[simp] theorem setReply_op (r : Reply) : (s.setReply r).op = s.op := rfl
@[simp] theorem setReply_addr (r : Reply) : (s.setReply r).addr = s.addr := rfl
@[simp] theorem setReply_level (r : Reply) : (s.setReply r).level = s.level := rfl
@[simp] theorem setReply_byteCnt (r : Reply) : (s.setReply r).byteCnt = s.byteCnt := rfl
@[simp] theorem setReply_shreg (r : Reply) : (s.setReply r).shreg = s.shreg := rfl
@[simp] theorem setReply_bitCnt (r : Reply) : (s.setReply r).bitCnt = s.bitCnt := rfl
@[simp] theorem setReply_pollCnt (r : Reply) : (s.setReply r).pollCnt = s.pollCnt := rfl
@[simp] theorem setReply_result (r : Reply) : (s.setReply r).result = s.result := rfl
@[simp] theorem setReply_resultKnown (r : Reply) : (s.setReply r).resultKnown = s.resultKnown := rfl
@[simp] theorem setReply_reply (r : Reply) : (s.setReply r).reply = r := rfl
@[simp] theorem setReply_todo (r : Reply) : (s.setReply r).todo = s.todo := rfl
@[simp] theorem setReply_requests (r : Reply) : (s.setReply r).requests = s.requests := rfl
@[simp] theorem setReply_calls (r : Reply) : (s.setReply r).calls = s.calls := rfl
@[simp] theorem setReply_payload (r : Reply) : (s.setReply r).payload = s.payload := rfl
@[simp] theorem setReply_taken (r : Reply) : (s.setReply r).taken = s.taken := rfl
@[simp] theorem setReply_answers (r : Reply) : (s.setReply r).answers = s.answers := rfl
@[simp] theorem setReply_accesses (r : Reply) : (s.setReply r).accesses = s.accesses := rfl
@[simp] theorem setReply_events (r : Reply) : (s.setReply r).events = s.events := rfl

/-! What is left of the operation (log entry 2). -/

@[simp] theorem setTodo_cfg (ms : List Micro) : (s.setTodo ms).cfg = s.cfg := rfl
@[simp] theorem setTodo_clkO (ms : List Micro) : (s.setTodo ms).clkO = s.clkO := rfl
@[simp] theorem setTodo_clkKnown (ms : List Micro) : (s.setTodo ms).clkKnown = s.clkKnown := rfl
@[simp] theorem setTodo_dioO (ms : List Micro) : (s.setTodo ms).dioO = s.dioO := rfl
@[simp] theorem setTodo_dioKnown (ms : List Micro) : (s.setTodo ms).dioKnown = s.dioKnown := rfl
@[simp] theorem setTodo_phase (ms : List Micro) : (s.setTodo ms).phase = s.phase := rfl
@[simp] theorem setTodo_op (ms : List Micro) : (s.setTodo ms).op = s.op := rfl
@[simp] theorem setTodo_addr (ms : List Micro) : (s.setTodo ms).addr = s.addr := rfl
@[simp] theorem setTodo_level (ms : List Micro) : (s.setTodo ms).level = s.level := rfl
@[simp] theorem setTodo_byteCnt (ms : List Micro) : (s.setTodo ms).byteCnt = s.byteCnt := rfl
@[simp] theorem setTodo_shreg (ms : List Micro) : (s.setTodo ms).shreg = s.shreg := rfl
@[simp] theorem setTodo_bitCnt (ms : List Micro) : (s.setTodo ms).bitCnt = s.bitCnt := rfl
@[simp] theorem setTodo_pollCnt (ms : List Micro) : (s.setTodo ms).pollCnt = s.pollCnt := rfl
@[simp] theorem setTodo_result (ms : List Micro) : (s.setTodo ms).result = s.result := rfl
@[simp] theorem setTodo_resultKnown (ms : List Micro) : (s.setTodo ms).resultKnown = s.resultKnown := rfl
@[simp] theorem setTodo_reply (ms : List Micro) : (s.setTodo ms).reply = s.reply := rfl
@[simp] theorem setTodo_todo (ms : List Micro) : (s.setTodo ms).todo = ms := rfl
@[simp] theorem setTodo_requests (ms : List Micro) : (s.setTodo ms).requests = s.requests := rfl
@[simp] theorem setTodo_calls (ms : List Micro) : (s.setTodo ms).calls = s.calls := rfl
@[simp] theorem setTodo_payload (ms : List Micro) : (s.setTodo ms).payload = s.payload := rfl
@[simp] theorem setTodo_taken (ms : List Micro) : (s.setTodo ms).taken = s.taken := rfl
@[simp] theorem setTodo_answers (ms : List Micro) : (s.setTodo ms).answers = s.answers := rfl
@[simp] theorem setTodo_accesses (ms : List Micro) : (s.setTodo ms).accesses = s.accesses := rfl
@[simp] theorem setTodo_events (ms : List Micro) : (s.setTodo ms).events = s.events := rfl

/-! What HOST will present (log entry 17). -/

@[simp] theorem setRequests_cfg (qs : List HostRequest) : (s.setRequests qs).cfg = s.cfg := rfl
@[simp] theorem setRequests_clkO (qs : List HostRequest) : (s.setRequests qs).clkO = s.clkO := rfl
@[simp] theorem setRequests_clkKnown (qs : List HostRequest) : (s.setRequests qs).clkKnown = s.clkKnown := rfl
@[simp] theorem setRequests_dioO (qs : List HostRequest) : (s.setRequests qs).dioO = s.dioO := rfl
@[simp] theorem setRequests_dioKnown (qs : List HostRequest) : (s.setRequests qs).dioKnown = s.dioKnown := rfl
@[simp] theorem setRequests_phase (qs : List HostRequest) : (s.setRequests qs).phase = s.phase := rfl
@[simp] theorem setRequests_op (qs : List HostRequest) : (s.setRequests qs).op = s.op := rfl
@[simp] theorem setRequests_addr (qs : List HostRequest) : (s.setRequests qs).addr = s.addr := rfl
@[simp] theorem setRequests_level (qs : List HostRequest) : (s.setRequests qs).level = s.level := rfl
@[simp] theorem setRequests_byteCnt (qs : List HostRequest) : (s.setRequests qs).byteCnt = s.byteCnt := rfl
@[simp] theorem setRequests_shreg (qs : List HostRequest) : (s.setRequests qs).shreg = s.shreg := rfl
@[simp] theorem setRequests_bitCnt (qs : List HostRequest) : (s.setRequests qs).bitCnt = s.bitCnt := rfl
@[simp] theorem setRequests_pollCnt (qs : List HostRequest) : (s.setRequests qs).pollCnt = s.pollCnt := rfl
@[simp] theorem setRequests_result (qs : List HostRequest) : (s.setRequests qs).result = s.result := rfl
@[simp] theorem setRequests_resultKnown (qs : List HostRequest) : (s.setRequests qs).resultKnown = s.resultKnown := rfl
@[simp] theorem setRequests_reply (qs : List HostRequest) : (s.setRequests qs).reply = s.reply := rfl
@[simp] theorem setRequests_todo (qs : List HostRequest) : (s.setRequests qs).todo = s.todo := rfl
@[simp] theorem setRequests_requests (qs : List HostRequest) : (s.setRequests qs).requests = qs := rfl
@[simp] theorem setRequests_calls (qs : List HostRequest) : (s.setRequests qs).calls = s.calls := rfl
@[simp] theorem setRequests_payload (qs : List HostRequest) : (s.setRequests qs).payload = s.payload := rfl
@[simp] theorem setRequests_taken (qs : List HostRequest) : (s.setRequests qs).taken = s.taken := rfl
@[simp] theorem setRequests_answers (qs : List HostRequest) : (s.setRequests qs).answers = s.answers := rfl
@[simp] theorem setRequests_accesses (qs : List HostRequest) : (s.setRequests qs).accesses = s.accesses := rfl
@[simp] theorem setRequests_events (qs : List HostRequest) : (s.setRequests qs).events = s.events := rfl

/-! What is placed to be run whole (log entry 17). -/

@[simp] theorem setCalls_cfg (cs : List Call) : (s.setCalls cs).cfg = s.cfg := rfl
@[simp] theorem setCalls_clkO (cs : List Call) : (s.setCalls cs).clkO = s.clkO := rfl
@[simp] theorem setCalls_clkKnown (cs : List Call) : (s.setCalls cs).clkKnown = s.clkKnown := rfl
@[simp] theorem setCalls_dioO (cs : List Call) : (s.setCalls cs).dioO = s.dioO := rfl
@[simp] theorem setCalls_dioKnown (cs : List Call) : (s.setCalls cs).dioKnown = s.dioKnown := rfl
@[simp] theorem setCalls_phase (cs : List Call) : (s.setCalls cs).phase = s.phase := rfl
@[simp] theorem setCalls_op (cs : List Call) : (s.setCalls cs).op = s.op := rfl
@[simp] theorem setCalls_addr (cs : List Call) : (s.setCalls cs).addr = s.addr := rfl
@[simp] theorem setCalls_level (cs : List Call) : (s.setCalls cs).level = s.level := rfl
@[simp] theorem setCalls_byteCnt (cs : List Call) : (s.setCalls cs).byteCnt = s.byteCnt := rfl
@[simp] theorem setCalls_shreg (cs : List Call) : (s.setCalls cs).shreg = s.shreg := rfl
@[simp] theorem setCalls_bitCnt (cs : List Call) : (s.setCalls cs).bitCnt = s.bitCnt := rfl
@[simp] theorem setCalls_pollCnt (cs : List Call) : (s.setCalls cs).pollCnt = s.pollCnt := rfl
@[simp] theorem setCalls_result (cs : List Call) : (s.setCalls cs).result = s.result := rfl
@[simp] theorem setCalls_resultKnown (cs : List Call) : (s.setCalls cs).resultKnown = s.resultKnown := rfl
@[simp] theorem setCalls_reply (cs : List Call) : (s.setCalls cs).reply = s.reply := rfl
@[simp] theorem setCalls_todo (cs : List Call) : (s.setCalls cs).todo = s.todo := rfl
@[simp] theorem setCalls_requests (cs : List Call) : (s.setCalls cs).requests = s.requests := rfl
@[simp] theorem setCalls_calls (cs : List Call) : (s.setCalls cs).calls = cs := rfl
@[simp] theorem setCalls_payload (cs : List Call) : (s.setCalls cs).payload = s.payload := rfl
@[simp] theorem setCalls_taken (cs : List Call) : (s.setCalls cs).taken = s.taken := rfl
@[simp] theorem setCalls_answers (cs : List Call) : (s.setCalls cs).answers = s.answers := rfl
@[simp] theorem setCalls_accesses (cs : List Call) : (s.setCalls cs).accesses = s.accesses := rfl
@[simp] theorem setCalls_events (cs : List Call) : (s.setCalls cs).events = s.events := rfl

/-! `NextElem()` consumes one element (R107). -/

@[simp] theorem takeElem_cfg (es : List Byte) : (s.takeElem es).cfg = s.cfg := rfl
@[simp] theorem takeElem_clkO (es : List Byte) : (s.takeElem es).clkO = s.clkO := rfl
@[simp] theorem takeElem_clkKnown (es : List Byte) : (s.takeElem es).clkKnown = s.clkKnown := rfl
@[simp] theorem takeElem_dioO (es : List Byte) : (s.takeElem es).dioO = s.dioO := rfl
@[simp] theorem takeElem_dioKnown (es : List Byte) : (s.takeElem es).dioKnown = s.dioKnown := rfl
@[simp] theorem takeElem_phase (es : List Byte) : (s.takeElem es).phase = s.phase := rfl
@[simp] theorem takeElem_op (es : List Byte) : (s.takeElem es).op = s.op := rfl
@[simp] theorem takeElem_addr (es : List Byte) : (s.takeElem es).addr = s.addr := rfl
@[simp] theorem takeElem_level (es : List Byte) : (s.takeElem es).level = s.level := rfl
@[simp] theorem takeElem_byteCnt (es : List Byte) : (s.takeElem es).byteCnt = s.byteCnt := rfl
@[simp] theorem takeElem_shreg (es : List Byte) : (s.takeElem es).shreg = s.shreg := rfl
@[simp] theorem takeElem_bitCnt (es : List Byte) : (s.takeElem es).bitCnt = s.bitCnt := rfl
@[simp] theorem takeElem_pollCnt (es : List Byte) : (s.takeElem es).pollCnt = s.pollCnt := rfl
@[simp] theorem takeElem_result (es : List Byte) : (s.takeElem es).result = s.result := rfl
@[simp] theorem takeElem_resultKnown (es : List Byte) : (s.takeElem es).resultKnown = s.resultKnown := rfl
@[simp] theorem takeElem_reply (es : List Byte) : (s.takeElem es).reply = s.reply := rfl
@[simp] theorem takeElem_todo (es : List Byte) : (s.takeElem es).todo = s.todo := rfl
@[simp] theorem takeElem_requests (es : List Byte) : (s.takeElem es).requests = s.requests := rfl
@[simp] theorem takeElem_calls (es : List Byte) : (s.takeElem es).calls = s.calls := rfl
@[simp] theorem takeElem_payload (es : List Byte) : (s.takeElem es).payload = es := rfl
@[simp] theorem takeElem_taken (es : List Byte) : (s.takeElem es).taken = s.taken + 1 := rfl
@[simp] theorem takeElem_answers (es : List Byte) : (s.takeElem es).answers = s.answers := rfl
@[simp] theorem takeElem_accesses (es : List Byte) : (s.takeElem es).accesses = s.accesses := rfl
@[simp] theorem takeElem_events (es : List Byte) : (s.takeElem es).events = s.events := rfl

/-! Acceptance loads the operand registers (R20, R26). -/

@[simp] theorem accept_cfg (o : BitVec 3) (r : Request) : (s.accept o r).cfg = s.cfg := rfl
@[simp] theorem accept_clkO (o : BitVec 3) (r : Request) : (s.accept o r).clkO = s.clkO := rfl
@[simp] theorem accept_clkKnown (o : BitVec 3) (r : Request) : (s.accept o r).clkKnown = s.clkKnown := rfl
@[simp] theorem accept_dioO (o : BitVec 3) (r : Request) : (s.accept o r).dioO = s.dioO := rfl
@[simp] theorem accept_dioKnown (o : BitVec 3) (r : Request) : (s.accept o r).dioKnown = s.dioKnown := rfl
@[simp] theorem accept_phase (o : BitVec 3) (r : Request) : (s.accept o r).phase = s.phase := rfl
@[simp] theorem accept_op (o : BitVec 3) (r : Request) : (s.accept o r).op = o := rfl
@[simp] theorem accept_addr (o : BitVec 3) (r : Request) : (s.accept o r).addr = r.addr := rfl
@[simp] theorem accept_level (o : BitVec 3) (r : Request) : (s.accept o r).level = r.level := rfl
@[simp] theorem accept_byteCnt (o : BitVec 3) (r : Request) : (s.accept o r).byteCnt = s.byteCnt := rfl
@[simp] theorem accept_shreg (o : BitVec 3) (r : Request) : (s.accept o r).shreg = s.shreg := rfl
@[simp] theorem accept_bitCnt (o : BitVec 3) (r : Request) : (s.accept o r).bitCnt = s.bitCnt := rfl
@[simp] theorem accept_pollCnt (o : BitVec 3) (r : Request) : (s.accept o r).pollCnt = s.pollCnt := rfl
@[simp] theorem accept_result (o : BitVec 3) (r : Request) : (s.accept o r).result = s.result := rfl
@[simp] theorem accept_resultKnown (o : BitVec 3) (r : Request) : (s.accept o r).resultKnown = s.resultKnown := rfl
@[simp] theorem accept_reply (o : BitVec 3) (r : Request) : (s.accept o r).reply = s.reply := rfl
@[simp] theorem accept_todo (o : BitVec 3) (r : Request) : (s.accept o r).todo = s.todo := rfl
@[simp] theorem accept_requests (o : BitVec 3) (r : Request) : (s.accept o r).requests = s.requests := rfl
@[simp] theorem accept_calls (o : BitVec 3) (r : Request) : (s.accept o r).calls = s.calls := rfl
@[simp] theorem accept_payload (o : BitVec 3) (r : Request) : (s.accept o r).payload = r.payload := rfl
@[simp] theorem accept_taken (o : BitVec 3) (r : Request) : (s.accept o r).taken = 0 := rfl
@[simp] theorem accept_answers (o : BitVec 3) (r : Request) : (s.accept o r).answers = s.answers := rfl
@[simp] theorem accept_accesses (o : BitVec 3) (r : Request) : (s.accept o r).accesses = s.accesses := rfl
@[simp] theorem accept_events (o : BitVec 3) (r : Request) : (s.accept o r).events = s.events := rfl

/-! A request not accepted changes no register of CORE (R62). -/

@[simp] theorem turnAway_cfg : s.turnAway.cfg = s.cfg := rfl
@[simp] theorem turnAway_clkO : s.turnAway.clkO = s.clkO := rfl
@[simp] theorem turnAway_clkKnown : s.turnAway.clkKnown = s.clkKnown := rfl
@[simp] theorem turnAway_dioO : s.turnAway.dioO = s.dioO := rfl
@[simp] theorem turnAway_dioKnown : s.turnAway.dioKnown = s.dioKnown := rfl
@[simp] theorem turnAway_phase : s.turnAway.phase = s.phase := rfl
@[simp] theorem turnAway_op : s.turnAway.op = s.op := rfl
@[simp] theorem turnAway_addr : s.turnAway.addr = s.addr := rfl
@[simp] theorem turnAway_level : s.turnAway.level = s.level := rfl
@[simp] theorem turnAway_byteCnt : s.turnAway.byteCnt = s.byteCnt := rfl
@[simp] theorem turnAway_shreg : s.turnAway.shreg = s.shreg := rfl
@[simp] theorem turnAway_bitCnt : s.turnAway.bitCnt = s.bitCnt := rfl
@[simp] theorem turnAway_pollCnt : s.turnAway.pollCnt = s.pollCnt := rfl
@[simp] theorem turnAway_result : s.turnAway.result = s.result := rfl
@[simp] theorem turnAway_resultKnown : s.turnAway.resultKnown = s.resultKnown := rfl
@[simp] theorem turnAway_reply : s.turnAway.reply = .notAccepted := rfl
@[simp] theorem turnAway_todo : s.turnAway.todo = s.todo := rfl
@[simp] theorem turnAway_requests : s.turnAway.requests = s.requests := rfl
@[simp] theorem turnAway_calls : s.turnAway.calls = s.calls := rfl
@[simp] theorem turnAway_payload : s.turnAway.payload = s.payload := rfl
@[simp] theorem turnAway_taken : s.turnAway.taken = s.taken := rfl
@[simp] theorem turnAway_answers : s.turnAway.answers = s.answers := rfl
@[simp] theorem turnAway_accesses : s.turnAway.accesses = s.accesses := rfl
@[simp] theorem turnAway_events : s.turnAway.events = s.events := rfl

/-! The end in success (R100). -/

@[simp] theorem complete_cfg : s.complete.cfg = s.cfg := rfl
@[simp] theorem complete_clkO : s.complete.clkO = s.clkO := rfl
@[simp] theorem complete_clkKnown : s.complete.clkKnown = s.clkKnown := rfl
@[simp] theorem complete_dioO : s.complete.dioO = s.dioO := rfl
@[simp] theorem complete_dioKnown : s.complete.dioKnown = s.dioKnown := rfl
@[simp] theorem complete_phase : s.complete.phase = .idle := rfl
@[simp] theorem complete_op : s.complete.op = s.op := rfl
@[simp] theorem complete_addr : s.complete.addr = s.addr := rfl
@[simp] theorem complete_level : s.complete.level = s.level := rfl
@[simp] theorem complete_byteCnt : s.complete.byteCnt = s.byteCnt := rfl
@[simp] theorem complete_shreg : s.complete.shreg = s.shreg := rfl
@[simp] theorem complete_bitCnt : s.complete.bitCnt = s.bitCnt := rfl
@[simp] theorem complete_pollCnt : s.complete.pollCnt = s.pollCnt := rfl
@[simp] theorem complete_result : s.complete.result = .ok := rfl
@[simp] theorem complete_resultKnown : s.complete.resultKnown = true := rfl
@[simp] theorem complete_reply : s.complete.reply = .ok := rfl
@[simp] theorem complete_todo : s.complete.todo = s.todo := rfl
@[simp] theorem complete_requests : s.complete.requests = s.requests := rfl
@[simp] theorem complete_calls : s.complete.calls = s.calls := rfl
@[simp] theorem complete_payload : s.complete.payload = s.payload := rfl
@[simp] theorem complete_taken : s.complete.taken = s.taken := rfl
@[simp] theorem complete_answers : s.complete.answers = s.answers := rfl
@[simp] theorem complete_accesses : s.complete.accesses = s.accesses := rfl
@[simp] theorem complete_events : s.complete.events = s.events := rfl

/-! The abort (R124). -/

@[simp] theorem abort_cfg (e : Err) : (s.abort e).cfg = s.cfg := rfl
@[simp] theorem abort_clkO (e : Err) : (s.abort e).clkO = s.clkO := rfl
@[simp] theorem abort_clkKnown (e : Err) : (s.abort e).clkKnown = s.clkKnown := rfl
@[simp] theorem abort_dioO (e : Err) : (s.abort e).dioO = s.dioO := rfl
@[simp] theorem abort_dioKnown (e : Err) : (s.abort e).dioKnown = s.dioKnown := rfl
@[simp] theorem abort_phase (e : Err) : (s.abort e).phase = .idle := rfl
@[simp] theorem abort_op (e : Err) : (s.abort e).op = s.op := rfl
@[simp] theorem abort_addr (e : Err) : (s.abort e).addr = s.addr := rfl
@[simp] theorem abort_level (e : Err) : (s.abort e).level = s.level := rfl
@[simp] theorem abort_byteCnt (e : Err) : (s.abort e).byteCnt = s.byteCnt := rfl
@[simp] theorem abort_shreg (e : Err) : (s.abort e).shreg = s.shreg := rfl
@[simp] theorem abort_bitCnt (e : Err) : (s.abort e).bitCnt = s.bitCnt := rfl
@[simp] theorem abort_pollCnt (e : Err) : (s.abort e).pollCnt = s.pollCnt := rfl
@[simp] theorem abort_result (e : Err) : (s.abort e).result = e.toResult := rfl
@[simp] theorem abort_resultKnown (e : Err) : (s.abort e).resultKnown = true := rfl
@[simp] theorem abort_reply (e : Err) : (s.abort e).reply = .raised e := rfl
@[simp] theorem abort_todo (e : Err) : (s.abort e).todo = [] := rfl
@[simp] theorem abort_requests (e : Err) : (s.abort e).requests = s.requests := rfl
@[simp] theorem abort_calls (e : Err) : (s.abort e).calls = s.calls := rfl
@[simp] theorem abort_payload (e : Err) : (s.abort e).payload = s.payload := rfl
@[simp] theorem abort_taken (e : Err) : (s.abort e).taken = s.taken := rfl
@[simp] theorem abort_answers (e : Err) : (s.abort e).answers = s.answers := rfl
@[simp] theorem abort_accesses (e : Err) : (s.abort e).accesses = s.accesses := rfl
@[simp] theorem abort_events (e : Err) : (s.abort e).events = s.events := rfl

/-! The parameters the source fixes (R5). -/

@[simp] theorem cfg_ackPolls (c : Config) : c.ackPolls = 255 := c.ackPollsFixed
@[simp] theorem cfg_nPos (c : Config) : c.nPos = 4 := c.nPosFixed
@[simp] theorem cfg_opcDataAutoinc (c : Config) : c.opcDataAutoinc = 0x40#8 := c.opcDataAutoincFixed
@[simp] theorem cfg_opcAddr (c : Config) : c.opcAddr = 0xC0#8 := c.opcAddrFixed
@[simp] theorem cfg_opcBrightOn (c : Config) : c.opcBrightOn = 0x88#8 := c.opcBrightOnFixed
@[simp] theorem cfg_addrMask (c : Config) : c.addrMask = 0x0F#8 := c.addrMaskFixed
@[simp] theorem cfg_levelMask (c : Config) : c.levelMask = 0x07#8 := c.levelMaskFixed
@[simp] theorem cfg_nibbleMask (c : Config) : c.nibbleMask = 0x0F#8 := c.nibbleMaskFixed
@[simp] theorem cfg_blank (c : Config) : c.blank = 0x00#8 := c.blankFixed

/-! A delay is an event and nothing else (R131). -/

@[simp] theorem delay_cfg : (delay s).cfg = s.cfg := rfl
@[simp] theorem delay_clkO : (delay s).clkO = s.clkO := rfl
@[simp] theorem delay_clkKnown : (delay s).clkKnown = s.clkKnown := rfl
@[simp] theorem delay_dioO : (delay s).dioO = s.dioO := rfl
@[simp] theorem delay_dioKnown : (delay s).dioKnown = s.dioKnown := rfl
@[simp] theorem delay_phase : (delay s).phase = s.phase := rfl
@[simp] theorem delay_op : (delay s).op = s.op := rfl
@[simp] theorem delay_addr : (delay s).addr = s.addr := rfl
@[simp] theorem delay_level : (delay s).level = s.level := rfl
@[simp] theorem delay_byteCnt : (delay s).byteCnt = s.byteCnt := rfl
@[simp] theorem delay_shreg : (delay s).shreg = s.shreg := rfl
@[simp] theorem delay_bitCnt : (delay s).bitCnt = s.bitCnt := rfl
@[simp] theorem delay_pollCnt : (delay s).pollCnt = s.pollCnt := rfl
@[simp] theorem delay_result : (delay s).result = s.result := rfl
@[simp] theorem delay_resultKnown : (delay s).resultKnown = s.resultKnown := rfl
@[simp] theorem delay_reply : (delay s).reply = s.reply := rfl
@[simp] theorem delay_todo : (delay s).todo = s.todo := rfl
@[simp] theorem delay_requests : (delay s).requests = s.requests := rfl
@[simp] theorem delay_calls : (delay s).calls = s.calls := rfl
@[simp] theorem delay_payload : (delay s).payload = s.payload := rfl
@[simp] theorem delay_taken : (delay s).taken = s.taken := rfl
@[simp] theorem delay_answers : (delay s).answers = s.answers := rfl
@[simp] theorem delay_accesses : (delay s).accesses = s.accesses := rfl
@[simp] theorem delay_events : (delay s).events = s.events ++ [Event.delay (delayUs s.cfg)] := rfl

end Sys2Proof.Machine
end

