-- ==== Sys2Proof/Laws/Ops.lean ====
section
/-! SUPPORT. What the line and delay primitives can do, once for each, and how sequencing composes. -/

namespace Sys2Proof.Machine

open Sys2Proof.Safety

/-! Sequencing. -/

@[simp] theorem bind_done {α β : Type} (a : α) (s : State) (f : α → State → Flow β) :
    (Flow.done a s).bind f = f a s := rfl

@[simp] theorem bind_raised {α β : Type} (e : Err) (s : State) (f : α → State → Flow β) :
    (Flow.raised e s : Flow α).bind f = .raised e s := rfl

theorem bind_assoc {α β γ : Type} (x : Flow α) (f : α → State → Flow β) (g : β → State → Flow γ) :
    (x.bind f).bind g = x.bind fun a s => (f a s).bind g := by
  cases x <;> rfl

/-! The end of an instruction. -/

@[simp] theorem settle_done (s : State) : settle (.done () s) = s.setReply .ok := rfl

@[simp] theorem settle_raised (e : Err) (s : State) : settle (.raised e s) = s.raise e := rfl

/-- Outside an operation a raise goes to the caller alone (log entry 10). -/
theorem raise_idle (s : State) (e : Err) (h : s.phase = .idle) : s.raise e = s.setReply (.raised e) := by
  simp [State.raise, h]

/-- Inside an operation a raise is its abort (R124). -/
theorem raise_busy (s : State) (e : Err) (h : s.phase ≠ .idle) : s.raise e = s.abort e := by
  cases hp : s.phase <;> simp_all [State.raise]

/-! The answers. -/

theorem nextAnswer_cons (s : State) (a : Answer) (rest : List Answer) (h : s.answers = a :: rest) :
    s.nextAnswer = a := by
  simp [State.nextAnswer, h]

theorem nextAnswer_nil (s : State) (h : s.answers = []) : s.nextAnswer = Config.freeAnswer s.accesses := by
  simp [State.nextAnswer, h]

/-- The answer an access fails with stands at the head of `State.answers`, or the list is used up. -/
theorem nextAnswer_eq (s : State) (a : Answer) (h : s.nextAnswer = a) :
    s.answers[0]? = some a ∨ s.answers = [] := by
  cases hs : s.answers <;> simp_all [State.nextAnswer]

/-! What the environment and the history see of a stretch of a run. -/

@[simp] theorem latchView_true (l : Level) : latchView true l = some l := rfl

@[simp] theorem latchView_false (l : Level) : latchView false l = none := rfl

/-- From `s` to `t` the events `seg` happened and no others: the history, the answers used, the
accesses counted, the latches and the delays are those of `seg`; the configuration and what is placed for the machine stand. -/
structure History (s t : State) (seg : List Event) : Prop where
  cfg : t.cfg = s.cfg
  requests : t.requests = s.requests
  calls : t.calls = s.calls
  events : t.events = s.events ++ seg
  accesses : t.accesses = s.accesses + seg.countP isAccess
  answers : t.answers = s.answers.drop (seg.countP isAccess)
  clk : latchView t.clkKnown t.clkO = seg.foldl clkAfter (latchView s.clkKnown s.clkO)
  dio : latchView t.dioKnown t.dioO = seg.foldl dioAfter (latchView s.dioKnown s.dioO)
  delays : ∀ n, Event.delay n ∈ seg → n = delayUs s.cfg

/-- The registers no primitive of XPORT writes. -/
structure SameCommand (s t : State) : Prop where
  phase : t.phase = s.phase
  op : t.op = s.op
  addr : t.addr = s.addr
  level : t.level = s.level
  byteCnt : t.byteCnt = s.byteCnt
  result : t.result = s.result
  resultKnown : t.resultKnown = s.resultKnown
  reply : t.reply = s.reply
  todo : t.todo = s.todo
  payload : t.payload = s.payload
  taken : t.taken = s.taken

/-- The registers only `SEND_BYTE` writes. -/
structure SameShift (s t : State) : Prop where
  shreg : t.shreg = s.shreg
  bitCnt : t.bitCnt = s.bitCnt
  pollCnt : t.pollCnt = s.pollCnt

theorem History.refl (s : State) : History s s [] := by constructor <;> simp

theorem SameCommand.refl (s : State) : SameCommand s s := by constructor <;> rfl

theorem SameShift.refl (s : State) : SameShift s s := by constructor <;> rfl

theorem History.trans {s t u : State} {a b : List Event} (h : History s t a) (k : History t u b) :
    History s u (a ++ b) where
  cfg := k.cfg.trans h.cfg
  requests := k.requests.trans h.requests
  calls := k.calls.trans h.calls
  events := by rw [k.events, h.events, List.append_assoc]
  accesses := by rw [k.accesses, h.accesses, List.countP_append]; omega
  answers := by rw [k.answers, h.answers, List.drop_drop, List.countP_append]
  clk := by rw [k.clk, h.clk, List.foldl_append]
  dio := by rw [k.dio, h.dio, List.foldl_append]
  delays := fun n hn => by
    rcases List.mem_append.mp hn with hn | hn
    · exact h.delays n hn
    · rw [← h.cfg]; exact k.delays n hn

theorem SameCommand.trans {s t u : State} (h : SameCommand s t) (k : SameCommand t u) : SameCommand s u :=
  ⟨k.phase.trans h.phase, k.op.trans h.op, k.addr.trans h.addr, k.level.trans h.level,
   k.byteCnt.trans h.byteCnt, k.result.trans h.result, k.resultKnown.trans h.resultKnown,
   k.reply.trans h.reply, k.todo.trans h.todo, k.payload.trans h.payload, k.taken.trans h.taken⟩

theorem SameShift.trans {s t u : State} (h : SameShift s t) (k : SameShift t u) : SameShift s u :=
  ⟨k.shreg.trans h.shreg, k.bitCnt.trans h.bitCnt, k.pollCnt.trans h.pollCnt⟩

/-- A state that differs only in registers outside the history. -/
theorem History.relabel {s t u : State} {a : List Event} (h : History s t a)
    (hu : u.cfg = t.cfg ∧ u.requests = t.requests ∧ u.calls = t.calls
      ∧ u.events = t.events ∧ u.accesses = t.accesses ∧ u.answers = t.answers
      ∧ u.clkKnown = t.clkKnown ∧ u.clkO = t.clkO ∧ u.dioKnown = t.dioKnown ∧ u.dioO = t.dioO) : History s u a := by
  obtain ⟨h1, h2, h3, h5, h6, h7, h8, h9, h10, h11⟩ := hu
  exact ⟨h1.trans h.cfg, h2.trans h.requests, h3.trans h.calls, h5.trans h.events,
    h6.trans h.accesses, h7.trans h.answers, by rw [h8, h9]; exact h.clk,
    by rw [h10, h11]; exact h.dio, h.delays⟩

/-! One lemma for each primitive: everything it can do. -/

/-- `Delay` is its event and nothing else. -/
theorem delay_history (s : State) :
    History s (delay s) [.delay (delayUs s.cfg)] ∧ SameCommand s (delay s) ∧ SameShift s (delay s) := by
  refine ⟨?_, ?_, ?_⟩ <;> constructor <;>
    simp [isAccess, clkAfter, dioAfter]

/-- A drive of CLK completes with its level in the latch, or fails and leaves the latch unknown. -/
theorem clkSet_cases (b : Level) (s : State) :
    (∃ t, clkSet b s = .done () t ∧ History s t [.clkSet b] ∧ SameCommand s t ∧ SameShift s t)
      ∨ (∃ info t, clkSet b s = .raised (.lineFault info) t ∧ s.nextAnswer = .failed info
          ∧ History s t [.failed (.clk b)] ∧ SameCommand s t ∧ SameShift s t) := by
  unfold clkSet
  cases h : s.nextAnswer with
  | done lv =>
    refine .inl ⟨_, rfl, ?_, ?_, ?_⟩ <;> constructor <;>
      simp [isAccess, clkAfter, dioAfter]
  | failed info =>
    refine .inr ⟨info, _, rfl, rfl, ?_, ?_, ?_⟩ <;> constructor <;>
      simp [isAccess, clkAfter, dioAfter]

/-- A drive of DIO completes with its level in the latch, or fails and leaves the latch unknown. -/
theorem dioSet_cases (b : Level) (s : State) :
    (∃ t, dioSet b s = .done () t ∧ History s t [.dioSet b] ∧ SameCommand s t ∧ SameShift s t)
      ∨ (∃ info t, dioSet b s = .raised (.lineFault info) t ∧ s.nextAnswer = .failed info
          ∧ History s t [.failed (.dio b)] ∧ SameCommand s t ∧ SameShift s t) := by
  unfold dioSet
  cases h : s.nextAnswer with
  | done lv =>
    refine .inl ⟨_, rfl, ?_, ?_, ?_⟩ <;> constructor <;>
      simp [isAccess, clkAfter, dioAfter]
  | failed info =>
    refine .inr ⟨info, _, rfl, rfl, ?_, ?_, ?_⟩ <;> constructor <;>
      simp [isAccess, clkAfter, dioAfter]

/-- A read of DIO completes with LINES' level, or fails; it touches no latch. -/
theorem dioRead_cases (s : State) :
    (∃ r t, dioRead s = .done r t ∧ s.nextAnswer = .done r
        ∧ History s t [.dioRead r] ∧ SameCommand s t ∧ SameShift s t)
      ∨ (∃ info t, dioRead s = .raised (.lineFault info) t ∧ s.nextAnswer = .failed info
          ∧ History s t [.failed .read] ∧ SameCommand s t ∧ SameShift s t) := by
  unfold dioRead
  cases h : s.nextAnswer with
  | done lv =>
    refine .inl ⟨lv, _, rfl, rfl, ?_, ?_, ?_⟩ <;> constructor <;>
      simp [isAccess, clkAfter, dioAfter]
  | failed info =>
    refine .inr ⟨info, _, rfl, rfl, ?_, ?_, ?_⟩ <;> constructor <;>
      simp [isAccess, clkAfter, dioAfter]

/-! The same with a completing answer at the head, for runs without failure. -/

theorem clkSet_completes (b : Level) (s : State) (a : Answer) (rest : List Answer)
    (h : s.answers = a :: rest) (hc : completes a = true) :
    clkSet b s = .done () ((s.tookAnswer.setClk b true).record (.clkSet b)) := by
  cases a with
  | done lv => simp [clkSet, nextAnswer_cons s _ rest h]
  | failed info => simp [completes] at hc

theorem dioSet_completes (b : Level) (s : State) (a : Answer) (rest : List Answer)
    (h : s.answers = a :: rest) (hc : completes a = true) :
    dioSet b s = .done () ((s.tookAnswer.setDio b true).record (.dioSet b)) := by
  cases a with
  | done lv => simp [dioSet, nextAnswer_cons s _ rest h]
  | failed info => simp [completes] at hc

theorem dioRead_completes (s : State) (r : Level) (rest : List Answer) (h : s.answers = .done r :: rest) :
    dioRead s = .done r (s.tookAnswer.record (.dioRead r)) := by
  simp [dioRead, nextAnswer_cons s _ rest h]

/-- `n + 1` completing accesses are one and `n`. -/
theorem drives_succ (n : Nat) (as : List Answer) :
    Drives (n + 1) as ↔ ∃ a as', as = a :: as' ∧ completes a = true ∧ Drives n as' := by
  cases as with
  | nil => simp [Drives]
  | cons a as => simp [Drives]; tauto

theorem drives_zero (as : List Answer) : Drives 0 as ↔ as = [] := by
  cases as <;> simp [Drives]

end Sys2Proof.Machine
end

