-- ==== Sys2Proof/Laws/Transport.lean ====
section
/-! SUPPORT. What each primitive of XPORT can do, once for each: all of its events, or a line fault at
one of its accesses and nothing after it, or (the wait only) the timeout. -/

namespace Sys2Proof.Machine

open Sys2Proof.Safety

/-- An attempt `a` of the access that the event `e` completes. -/
def attemptOf : Event → Option Access
  | .clkSet b => some (.clk b)
  | .dioSet b => some (.dio b)
  | .dioRead _ => some .read
  | .delay _ => none
  | .failed _ => none

/-- From `s`, a line fault cut the events `full` at one access: `t` has what came before it and the
failed attempt, and `info` is the failure value LINES answered. -/
structure CutAt (s t : State) (full : List Event) (info : Info) : Prop where
  cut : ∃ pre e post a, full = pre ++ e :: post ∧ attemptOf e = some a
    ∧ (∀ x ∈ pre, isCompleted x = true) ∧ History s t (pre ++ [Event.failed a])
    ∧ (s.answers[pre.countP isAccess]? = some (.failed info) ∨ s.answers.length ≤ pre.countP isAccess)
  same : SameCommand s t

theorem CutAt.prepend {s t u : State} {a b : List Event} {info : Info} (h : History s t a)
    (hc : SameCommand s t) (ha : ∀ x ∈ a, isCompleted x = true) (k : CutAt t u b info) :
    CutAt s u (a ++ b) info := by
  obtain ⟨⟨pre, e, post, at', hb, he, hp, hh, hi⟩, hs⟩ := k
  refine ⟨⟨a ++ pre, e, post, at', by simp [hb], he, ?_, by simpa using h.trans hh, ?_⟩, hc.trans hs⟩
  · intro x hx
    rcases List.mem_append.mp hx with hx | hx
    · exact ha x hx
    · exact hp x hx
  · rw [h.answers] at hi
    rw [List.countP_append]
    rcases hi with hi | hi
    · exact .inl (by simpa [List.getElem?_drop] using hi)
    · exact .inr (by rw [List.length_drop] at hi; omega)

theorem CutAt.append {s t : State} {a b : List Event} {info : Info} (k : CutAt s t a info) :
    CutAt s t (a ++ b) info := by
  obtain ⟨⟨pre, e, post, at', ha, he, hp, hh, hi⟩, hs⟩ := k
  exact ⟨⟨pre, e, post ++ b, at', by simp [ha], he, hp, hh, hi⟩, hs⟩

/-- A primitive with the fixed events `tr`: all of them, or a line fault at one access. -/
def Straight (s : State) (tr : List Event) (x : Flow Unit) : Prop :=
  (∃ t, x = .done () t ∧ History s t tr ∧ SameCommand s t)
    ∨ (∃ info t, x = .raised (.lineFault info) t ∧ CutAt s t tr info)

theorem Straight.bind {s : State} {a b : List Event} {x : Flow Unit} {f : Unit → State → Flow Unit}
    (hx : Straight s a x) (ha : ∀ e ∈ a, isCompleted e = true)
    (hf : ∀ t, x = .done () t → History s t a → SameCommand s t → Straight t b (f () t)) :
    Straight s (a ++ b) (x.bind f) := by
  rcases hx with ⟨t, rfl, hh, hc⟩ | ⟨info, t, rfl, k⟩
  · rcases hf t rfl hh hc with ⟨u, hu, hh', hc'⟩ | ⟨info, u, hu, k⟩
    · exact .inl ⟨u, hu, hh.trans hh', hc.trans hc'⟩
    · exact .inr ⟨info, u, hu, k.prepend hh hc ha⟩
  · exact .inr ⟨info, t, rfl, k.append⟩

theorem answer_at_head (s : State) (info : Info) (h : s.nextAnswer = .failed info) :
    s.answers[0]? = some (.failed info) ∨ s.answers.length ≤ 0 := by
  rcases nextAnswer_eq s _ h with h | h
  · exact .inl h
  · exact .inr (by simp [h])

theorem clkSet_straight (b : Level) (s : State) : Straight s [.clkSet b] (clkSet b s) := by
  rcases clkSet_cases b s with ⟨t, h, hh, hc, -⟩ | ⟨info, t, h, ha, hh, hc, -⟩
  · exact .inl ⟨t, h, hh, hc⟩
  · exact .inr ⟨info, t, h, ⟨[], _, [], _, rfl, rfl, by simp, hh, answer_at_head s info ha⟩, hc⟩

theorem dioSet_straight (b : Level) (s : State) : Straight s [.dioSet b] (dioSet b s) := by
  rcases dioSet_cases b s with ⟨t, h, hh, hc, -⟩ | ⟨info, t, h, ha, hh, hc, -⟩
  · exact .inl ⟨t, h, hh, hc⟩
  · exact .inr ⟨info, t, h, ⟨[], _, [], _, rfl, rfl, by simp, hh, answer_at_head s info ha⟩, hc⟩

theorem delay_straight (s : State) : Straight s [.delay (delayUs s.cfg)] (.done () (delay s)) :=
  .inl ⟨_, rfl, (delay_history s).1, (delay_history s).2.1⟩

/-- `SEND_BIT(b)` (R81, R89). -/
theorem sendBit_straight (b : Level) (s : State) :
    Straight s (traceBit (delayUs s.cfg) b) (sendBit b s) := by
  refine (clkSet_straight false s).bind (b := [.dioSet b, .clkSet true, .delay _]) (by simp [isCompleted]) ?_
  intro t₁ _ h₁ _
  refine (dioSet_straight b t₁).bind (b := [.clkSet true, .delay _]) (by simp [isCompleted]) ?_
  intro t₂ _ h₂ _
  refine (clkSet_straight true t₂).bind (b := [.delay _]) (by simp [isCompleted]) ?_
  intro t₃ _ h₃ _
  simpa [h₃.cfg, h₂.cfg, h₁.cfg] using delay_straight t₃

/-- `START` (R82, R89). -/
theorem startCondition_straight (s : State) :
    Straight s (traceStart (delayUs s.cfg)) (startCondition s) := by
  refine (clkSet_straight false s).bind (b := [.dioSet true, .clkSet true, .delay _, .dioSet false])
    (by simp [isCompleted]) ?_
  intro t₁ _ h₁ _
  refine (dioSet_straight true t₁).bind (b := [.clkSet true, .delay _, .dioSet false])
    (by simp [isCompleted]) ?_
  intro t₂ _ h₂ _
  refine (clkSet_straight true t₂).bind (b := [.delay _, .dioSet false]) (by simp [isCompleted]) ?_
  intro t₃ _ h₃ _
  have := (delay_straight t₃).bind (b := [.dioSet false]) (f := fun _ => dioSet false)
    (by simp [isCompleted]) (fun t _ _ _ => dioSet_straight false t)
  simpa [h₃.cfg, h₂.cfg, h₁.cfg] using this

/-- `STOP` (R84, R89). -/
theorem stopCondition_straight (s : State) :
    Straight s (traceStop (delayUs s.cfg)) (stopCondition s) := by
  refine (clkSet_straight false s).bind
    (b := [.dioSet false, .clkSet true, .delay _, .dioSet true, .delay _]) (by simp [isCompleted]) ?_
  intro t₁ _ h₁ _
  refine (dioSet_straight false t₁).bind (b := [.clkSet true, .delay _, .dioSet true, .delay _])
    (by simp [isCompleted]) ?_
  intro t₂ _ h₂ _
  refine (clkSet_straight true t₂).bind (b := [.delay _, .dioSet true, .delay _])
    (by simp [isCompleted]) ?_
  intro t₃ _ h₃ _
  have := (delay_straight t₃).bind (b := [.dioSet true, .delay (delayUs t₃.cfg)])
    (f := fun _ u => (dioSet true u).bind fun _ v => .done () (delay v)) (by simp [isCompleted])
    (fun t _ ht _ => (dioSet_straight true t).bind (by simp [isCompleted]) fun u _ hu _ => by
      simpa [hu.cfg, ht.cfg] using delay_straight u)
  simpa [h₃.cfg, h₂.cfg, h₁.cfg] using this

/-- The three straight primitives leave `SHREG`, `BIT_CNT` and `POLL_CNT` alone, however they end. -/
def StillShift (s : State) (x : Flow Unit) : Prop :=
  (∀ t, x = .done () t → SameShift s t) ∧ (∀ e t, x = .raised e t → SameShift s t)

theorem StillShift.bind {s : State} {x : Flow Unit} {f : Unit → State → Flow Unit}
    (hx : StillShift s x) (hf : ∀ t, StillShift t (f () t)) : StillShift s (x.bind f) := by
  cases x with
  | done a t =>
    have h := hx.1 t rfl
    exact ⟨fun u hu => h.trans ((hf t).1 u hu), fun e u hu => h.trans ((hf t).2 e u hu)⟩
  | raised e t =>
    exact ⟨fun u hu => by simp at hu, fun e' u hu => hx.2 e' u hu⟩

theorem clkSet_still (b : Level) (s : State) : StillShift s (clkSet b s) := by
  rcases clkSet_cases b s with ⟨t, h, -, -, hs⟩ | ⟨info, t, h, -, -, -, hs⟩
  · exact ⟨fun u hu => (by cases h.symm.trans hu; exact hs), fun e u hu => (by cases h.symm.trans hu)⟩
  · exact ⟨fun u hu => (by cases h.symm.trans hu), fun e u hu => (by cases h.symm.trans hu; exact hs)⟩

theorem dioSet_still (b : Level) (s : State) : StillShift s (dioSet b s) := by
  rcases dioSet_cases b s with ⟨t, h, -, -, hs⟩ | ⟨info, t, h, -, -, -, hs⟩
  · exact ⟨fun u hu => (by cases h.symm.trans hu; exact hs), fun e u hu => (by cases h.symm.trans hu)⟩
  · exact ⟨fun u hu => (by cases h.symm.trans hu), fun e u hu => (by cases h.symm.trans hu; exact hs)⟩

theorem delay_still (s : State) : StillShift s (.done () (delay s)) :=
  ⟨fun t h => by cases h; exact (delay_history s).2.2, fun e t h => by cases h⟩

theorem sendBit_still (b : Level) (s : State) : StillShift s (sendBit b s) :=
  (clkSet_still _ _).bind fun _ => (dioSet_still _ _).bind fun _ => (clkSet_still _ _).bind fun _ =>
    delay_still _

theorem startCondition_still (s : State) : StillShift s (startCondition s) :=
  (clkSet_still _ _).bind fun _ => (dioSet_still _ _).bind fun _ => (clkSet_still _ _).bind fun t =>
    StillShift.bind (f := fun _ => dioSet false) (delay_still t) fun _ => dioSet_still _ _

theorem stopCondition_still (s : State) : StillShift s (stopCondition s) :=
  (clkSet_still _ _).bind fun _ => (dioSet_still _ _).bind fun _ => (clkSet_still _ _).bind fun t =>
    StillShift.bind (f := fun _ u => (dioSet true u).bind fun _ v => .done () (delay v)) (delay_still t)
      fun _ => (dioSet_still _ _).bind fun _ => delay_still _

/-! Register transfers between events. -/

theorem loadByte_history (s : State) (v : Byte) :
    History s (s.loadByte v) [] ∧ SameCommand s (s.loadByte v) :=
  ⟨(History.refl s).relabel (by simp), by constructor <;> simp⟩

theorem shiftByte_history (s : State) : History s s.shiftByte [] ∧ SameCommand s s.shiftByte :=
  ⟨(History.refl s).relabel (by simp), by constructor <;> simp⟩

theorem setPollCnt_history (s : State) (n : BitVec 8) :
    History s (s.setPollCnt n) [] ∧ SameCommand s (s.setPollCnt n) :=
  ⟨(History.refl s).relabel (by simp), by constructor <;> simp⟩

/-- The events of `n` data bits taken from the register value `v` (R16, R87). -/
def traceData (us : Nat) (v : Byte) (n : Nat) : List Event :=
  ((List.range n).map fun i => traceBit us (v.getLsbD i)).flatten

theorem traceData_succ (us : Nat) (v : Byte) (n : Nat) :
    traceData us v (n + 1) = traceBit us (v.getLsbD 0) ++ traceData us (v >>> 1) n := by
  simp only [traceData, List.range_succ_eq_map, List.map_cons, List.map_map, List.flatten_cons]
  congr 3
  funext i
  simp [Nat.add_comm]

theorem traceBit_completed (us : Nat) (b : Level) : ∀ e ∈ traceBit us b, isCompleted e = true := by
  simp [traceBit, isCompleted]

theorem traceData_completed (us : Nat) (v : Byte) (n : Nat) :
    ∀ e ∈ traceData us v n, isCompleted e = true := by
  intro e he
  simp only [traceData, List.mem_flatten, List.mem_map] at he
  obtain ⟨_, ⟨i, -, rfl⟩, he⟩ := he
  exact traceBit_completed us _ e he

theorem traceShift_completed (us : Nat) (v : Byte) : ∀ e ∈ traceShift us v, isCompleted e = true := by
  intro e he
  rcases List.mem_append.mp he with he | he
  · exact traceData_completed us v 8 e he
  · exact traceBit_completed us true e he

theorem traceHighs_completed (us k : Nat) : ∀ e ∈ traceHighs us k, isCompleted e = true := by
  intro e he
  simp only [traceHighs, List.mem_flatten, List.mem_replicate] at he
  obtain ⟨_, ⟨-, rfl⟩, he⟩ := he
  simp only [List.mem_cons, List.not_mem_nil, or_false] at he
  rcases he with rfl | rfl <;> rfl

theorem traceHighs_succ (us k : Nat) :
    traceHighs us (k + 1) = [.dioRead true, .delay us] ++ traceHighs us k := by
  simp [traceHighs, List.replicate_succ]

/-- The data phase: `n` bits of `SHREG`, bit 0 first; `POLL_CNT` is not touched (R87). -/
theorem shiftOut_straight (n : Nat) (s : State) :
    Straight s (traceData (delayUs s.cfg) s.shreg n) (shiftOut n s) := by
  induction n generalizing s with
  | zero => exact .inl ⟨s, rfl, by simpa [traceData] using History.refl s, SameCommand.refl s⟩
  | succ n ih =>
    rw [traceData_succ]
    refine (sendBit_straight _ s).bind (traceBit_completed _ _) ?_
    intro t ht hh hc
    have hs := (sendBit_still _ s).1 t ht
    obtain ⟨h₁, c₁⟩ := shiftByte_history t
    have := ih t.shiftByte
    simp only [shiftByte_cfg, hh.cfg, shiftByte_shreg, hs.shreg] at this
    rcases this with ⟨u, hu, hh', hc'⟩ | ⟨info, u, hu, k⟩
    · exact .inl ⟨u, hu, by simpa using h₁.trans hh', c₁.trans hc'⟩
    · exact .inr ⟨info, u, hu, by simpa using CutAt.prepend h₁ c₁ (by simp) k⟩

/-- The registers after the data phase that ends in success (R16, R17). -/
theorem shiftOut_registers (n : Nat) (s t : State) (h : shiftOut n s = .done () t) :
    t.shreg = s.shreg >>> n ∧ t.bitCnt = s.bitCnt + BitVec.ofNat 4 n ∧ t.pollCnt = s.pollCnt := by
  induction n generalizing s with
  | zero => cases h; simp
  | succ n ih =>
    unfold shiftOut at h
    cases hb : sendBit (s.shreg.getLsbD 0) s with
    | raised e u => rw [hb] at h; cases h
    | done a u =>
      rw [hb] at h
      have hs := (sendBit_still _ s).1 u hb
      have := ih u.shiftByte h
      simp only [shiftByte_shreg, shiftByte_bitCnt, shiftByte_pollCnt, hs.shreg, hs.bitCnt, hs.pollCnt] at this
      refine ⟨?_, ?_, this.2.2⟩
      · rw [this.1, ← BitVec.shiftRight_add, Nat.add_comm]
      · rw [this.2.1, BitVec.add_assoc, Nat.add_comm n 1, ← BitVec.ofNat_add]

/-- Everything the acknowledgement wait can do with `n` iterations left: a low level after `k` high
ones, a line fault at a read, or the timeout (R86, R125). -/
theorem pollWait_cases (n : Nat) (s : State) :
    (∃ k t, k < n ∧ pollWait n s = .done () t
        ∧ History s t (traceHighs (delayUs s.cfg) k ++ [Event.dioRead false]) ∧ SameCommand s t
        ∧ t.shreg = s.shreg ∧ t.bitCnt = s.bitCnt ∧ t.pollCnt = s.pollCnt + BitVec.ofNat 8 k)
      ∨ (∃ k info t, k < n ∧ pollWait n s = .raised (.lineFault info) t
          ∧ CutAt s t (traceHighs (delayUs s.cfg) k ++ [Event.dioRead false]) info
          ∧ t.shreg = s.shreg ∧ t.bitCnt = s.bitCnt ∧ t.pollCnt = s.pollCnt + BitVec.ofNat 8 k)
      ∨ (∃ t, pollWait n s = .raised .ackTimeout t ∧ History s t (traceHighs (delayUs s.cfg) n)
          ∧ SameCommand s t ∧ t.shreg = s.shreg ∧ t.bitCnt = s.bitCnt
          ∧ t.pollCnt = s.pollCnt + BitVec.ofNat 8 n) := by
  induction n generalizing s with
  | zero =>
    exact .inr (.inr ⟨s, rfl, by simpa [traceHighs] using History.refl s, SameCommand.refl s, rfl, rfl,
      by simp⟩)
  | succ n ih =>
    rcases dioRead_cases s with ⟨r, t, h, -, hh, hc, hs⟩ | ⟨info, t, h, ha, hh, hc, hs⟩
    · cases r with
      | false =>
        exact .inl ⟨0, t, by omega, by simp [pollWait, h], by simpa [traceHighs] using hh, hc, hs.shreg,
          hs.bitCnt, by simp [hs.pollCnt]⟩
      | true =>
        obtain ⟨d₁, d₂, d₃⟩ := delay_history t
        obtain ⟨p₁, p₂⟩ := setPollCnt_history (delay t) (t.pollCnt + 1#8)
        have hh' : History s ((delay t).setPollCnt (t.pollCnt + 1#8))
            [.dioRead true, .delay (delayUs s.cfg)] := by
          simpa [hh.cfg] using (hh.trans d₁).trans p₁
        have hc' := (hc.trans d₂).trans p₂
        have e : pollWait (n + 1) s = pollWait n ((delay t).setPollCnt (t.pollCnt + 1#8)) := by
          simp [pollWait, h]
        have key : ∀ k, t.pollCnt + 1#8 + BitVec.ofNat 8 k = s.pollCnt + BitVec.ofNat 8 (k + 1) := by
          intro k
          rw [hs.pollCnt, BitVec.add_assoc, Nat.add_comm k 1, BitVec.ofNat_add]
        have hsh : ((delay t).setPollCnt (t.pollCnt + 1#8)).shreg = s.shreg := by simp [hs.shreg]
        have hbc : ((delay t).setPollCnt (t.pollCnt + 1#8)).bitCnt = s.bitCnt := by simp [hs.bitCnt]
        have := ih ((delay t).setPollCnt (t.pollCnt + 1#8))
        rw [← e, hh'.cfg, hsh, hbc, setPollCnt_pollCnt] at this
        simp only [key] at this
        rcases this with ⟨k, u, hk, hu, hh'', hc'', h4⟩ | ⟨k, info, u, hk, hu, c, h4⟩ | ⟨u, hu, hh'', hc'', h4⟩
        · exact .inl ⟨k + 1, u, by omega, hu, by simpa [traceHighs_succ] using hh'.trans hh'',
            hc'.trans hc'', h4⟩
        · refine .inr (.inl ⟨k + 1, info, u, by omega, hu, ?_, h4⟩)
          simpa [traceHighs_succ] using CutAt.prepend hh' hc' (by simp [isCompleted]) c
        · exact .inr (.inr ⟨u, hu, by simpa [traceHighs_succ] using hh'.trans hh'', hc'.trans hc'', h4⟩)
    · refine .inr (.inl ⟨0, info, t, by omega, by simp [pollWait, h], ?_, hs.shreg, hs.bitCnt, by simp [hs.pollCnt]⟩)
      exact ⟨⟨[], _, [], _, rfl, rfl, by simp, hh, answer_at_head s info ha⟩, hc⟩

/-- The data bits and the acknowledgement clock of a byte (R85, R87). -/
theorem shift_straight (v : Byte) (s : State) :
    Straight s (traceShift (delayUs s.cfg) v)
      ((shiftOut 8 (s.loadByte v)).bind fun _ s => sendBit true s) := by
  obtain ⟨h₀, c₀⟩ := loadByte_history s v
  have hd : Straight s (traceData (delayUs s.cfg) v 8) (shiftOut 8 (s.loadByte v)) := by
    have := shiftOut_straight 8 (s.loadByte v)
    simp only [loadByte_cfg, loadByte_shreg] at this
    rcases this with ⟨u, hu, hh, hc⟩ | ⟨info, u, hu, k⟩
    · exact .inl ⟨u, hu, by simpa using h₀.trans hh, c₀.trans hc⟩
    · exact .inr ⟨info, u, hu, by simpa using CutAt.prepend h₀ c₀ (by simp) k⟩
  refine hd.bind (traceData_completed _ _ _) fun t _ hh _ => ?_
  simpa [hh.cfg] using sendBit_straight true t

/-- The registers after the data bits and the acknowledgement clock. -/
theorem shift_registers (v : Byte) (s t : State)
    (h : ((shiftOut 8 (s.loadByte v)).bind fun _ s => sendBit true s) = .done () t) :
    t.shreg = 0#8 ∧ t.bitCnt = 8#4 ∧ t.pollCnt = s.pollCnt := by
  cases hb : shiftOut 8 (s.loadByte v) with
  | raised e u => rw [hb] at h; cases h
  | done a u =>
    have hr := shiftOut_registers 8 _ u hb
    rw [hb] at h
    have hs := (sendBit_still true u).1 t h
    have hz : v >>> 8 = 0#8 := BitVec.ushiftRight_eq_zero (by decide)
    rw [hs.shreg, hs.bitCnt, hs.pollCnt, hr.1, hr.2.1, hr.2.2]
    simpa using hz

/-- Everything `SEND_BYTE(v)` can do: acknowledged after `k` high reads, a line fault at one of its
accesses, or the timeout (R87, R89, R125). -/
theorem sendByte_cases (v : Byte) (s : State) :
    (∃ k t, k < 255 ∧ sendByte v s = .done () t ∧ History s t (traceByte (delayUs s.cfg) v k)
        ∧ SameCommand s t ∧ t.shreg = 0#8 ∧ t.bitCnt = 8#4 ∧ t.pollCnt = BitVec.ofNat 8 k)
      ∨ (∃ k info t, k < 255 ∧ sendByte v s = .raised (.lineFault info) t
          ∧ CutAt s t (traceByte (delayUs s.cfg) v k) info)
      ∨ (∃ t, sendByte v s = .raised .ackTimeout t
          ∧ History s t (traceShift (delayUs s.cfg) v ++ traceHighs (delayUs s.cfg) 255)
          ∧ SameCommand s t ∧ t.shreg = 0#8 ∧ t.bitCnt = 8#4 ∧ t.pollCnt = 255#8) := by
  have e : sendByte v s = ((shiftOut 8 (s.loadByte v)).bind fun _ s => sendBit true s).bind
      fun _ s => pollWait s.cfg.ackPolls (s.setPollCnt 0#8) := (bind_assoc _ _ _).symm
  rw [e]
  rcases shift_straight v s with ⟨t, ht, hh, hc⟩ | ⟨info, t, ht, k⟩
  · have hr := shift_registers v s t ht
    rw [ht, bind_done, cfg_ackPolls]
    obtain ⟨p₁, p₂⟩ := setPollCnt_history t 0#8
    have hh' : History s (t.setPollCnt 0#8) (traceShift (delayUs s.cfg) v) := by simpa using hh.trans p₁
    have hc' := hc.trans p₂
    have key := pollWait_cases 255 (t.setPollCnt 0#8)
    rw [hh'.cfg] at key
    simp only [setPollCnt_shreg, setPollCnt_bitCnt, setPollCnt_pollCnt, hr.1, hr.2.1, BitVec.zero_add] at key
    rcases key with ⟨k, u, hk, hu, h1, h2, h3, h4, h5⟩ | ⟨k, info, u, hk, hu, c, h3, h4, h5⟩ | ⟨u, hu, h1, h2, h3, h4, h5⟩
    · exact .inl ⟨k, u, hk, hu, by simpa [traceByte] using hh'.trans h1, hc'.trans h2, h3, h4, h5⟩
    · refine .inr (.inl ⟨k, info, u, hk, hu, ?_⟩)
      simpa [traceByte] using CutAt.prepend hh' hc' (traceShift_completed _ _) c
    · exact .inr (.inr ⟨u, hu, hh'.trans h1, hc'.trans h2, h3, h4, h5⟩)
  · rw [ht]
    exact .inr (.inl ⟨0, info, t, by omega, rfl, by
      simpa [traceByte] using k.append (b := traceHighs (delayUs s.cfg) 0 ++ [Event.dioRead false])⟩)

end Sys2Proof.Machine
end

