-- ==== Sys2Proof/Laws/Command.lean ====
section
/-! SUPPORT. What the parts of a transaction can do, once for each: the wire bytes, the data loops, the
frame and the acceptance of a request. -/

namespace Sys2Proof.Machine

open Sys2Proof.Safety

/-! Acceptance, completion, abort: what they write. -/

theorem serve_idle (op : BitVec 3) (r : Request) (run : State → State) (s : State) (h : s.phase = .idle) :
    serve op r run s = run (s.accept op r) := by
  simp [serve, h]

theorem serve_busy (op : BitVec 3) (r : Request) (run : State → State) (s : State) (h : s.phase ≠ .idle) :
    serve op r run s = s.turnAway := by
  cases hp : s.phase <;> simp_all [serve]

@[simp] theorem closeFrame_done (s : State) : closeFrame (.done () s) = s.complete := rfl

@[simp] theorem closeFrame_raised (e : Err) (s : State) : closeFrame (.raised e s) = s.abort e := rfl

/-- An operation ends in Idle with a result, however its frame ended (R100, R124). -/
theorem closeFrame_ends (x : Flow Unit) :
    (closeFrame x).phase = .idle ∧ (closeFrame x).resultKnown = true := by
  cases x <;> simp [closeFrame]

theorem transaction_ends (cmd : Byte) (body : State → Flow Unit) (s : State) :
    (transaction cmd body s).phase = .idle ∧ (transaction cmd body s).resultKnown = true :=
  closeFrame_ends _

/-! The wire bytes. -/

/-- What a wire byte leaves alone: the registers of `SameCommand` but for `BYTE_CNT`. -/
structure SameRequest (s t : State) : Prop where
  phase : t.phase = s.phase
  op : t.op = s.op
  addr : t.addr = s.addr
  level : t.level = s.level
  result : t.result = s.result
  resultKnown : t.resultKnown = s.resultKnown
  reply : t.reply = s.reply
  todo : t.todo = s.todo

theorem SameCommand.request {s t : State} (h : SameCommand s t) : SameRequest s t :=
  ⟨h.phase, h.op, h.addr, h.level, h.result, h.resultKnown, h.reply, h.todo⟩

theorem SameRequest.refl (s : State) : SameRequest s s := by constructor <;> rfl

theorem SameRequest.trans {s t u : State} (h : SameRequest s t) (k : SameRequest t u) : SameRequest s u :=
  ⟨k.phase.trans h.phase, k.op.trans h.op, k.addr.trans h.addr, k.level.trans h.level,
   k.result.trans h.result, k.resultKnown.trans h.resultKnown, k.reply.trans h.reply, k.todo.trans h.todo⟩

theorem setByteCnt_history (s : State) (n : Nat) :
    History s (s.setByteCnt n) [] ∧ SameRequest s (s.setByteCnt n) :=
  ⟨(History.refl s).relabel (by simp), by constructor <;> simp⟩

theorem takeElem_history (s : State) (es : List Byte) :
    History s (s.takeElem es) [] ∧ SameRequest s (s.takeElem es) :=
  ⟨(History.refl s).relabel (by simp), by constructor <;> simp⟩

/-- A command byte: acknowledged, with `BYTE_CNT` 1 after it; or the error of its `SEND_BYTE` (R100). -/
theorem sendCommand_cases (c : Byte) (s : State) :
    (∃ t, sendByte c s = .done () t ∧ sendCommand c s = .done () (t.setByteCnt 1))
      ∨ (∃ e t, sendByte c s = .raised e t ∧ sendCommand c s = .raised e t) := by
  cases h : sendByte c s with
  | done a t => exact .inl ⟨t, rfl, by simp [sendCommand, h]⟩
  | raised e t => exact .inr ⟨e, t, rfl, by simp [sendCommand, h]⟩

/-- A data byte: acknowledged and counted, or the error of its `SEND_BYTE` (R100). -/
theorem sendData_cases (d : Byte) (s : State) :
    (∃ t, sendByte d s = .done () t ∧ sendData d s = .done () (t.setByteCnt (s.byteCnt + 1)))
      ∨ (∃ e t, sendByte d s = .raised e t ∧ sendData d s = .raised e t) := by
  rcases sendByte_cases d s with ⟨k, t, -, h, -, hc, -⟩ | ⟨k, info, t, -, h, -⟩ | ⟨t, h, -⟩
  · exact .inl ⟨t, h, by simp [sendData, h, hc.byteCnt]⟩
  · exact .inr ⟨_, t, h, by simp [sendData, h]⟩
  · exact .inr ⟨_, t, h, by simp [sendData, h]⟩

/-! The data loops, one turn at a time. -/

@[simp] theorem sendOwn_nil (s : State) : sendOwn [] s = .done () s := rfl

theorem sendOwn_cons (d : Byte) (ds : List Byte) (s : State) :
    sendOwn (d :: ds) s = (sendData d s).bind fun _ s => sendOwn ds s := rfl

@[simp] theorem sendPayload_nil (t : Translate) (s : State) : sendPayload t [] s = .done () s := rfl

theorem sendPayload_cons (t : Translate) (e : Byte) (es : List Byte) (s : State) :
    sendPayload t (e :: es) s
      = (sendData (translate t s e) (s.takeElem es)).bind fun _ s => sendPayload t es s := rfl

/-- The state a flow ends in, whichever way. -/
def Flow.last {α : Type} : Flow α → State
  | .done _ s => s
  | .raised _ s => s

@[simp] theorem last_done {α : Type} (a : α) (s : State) : (Flow.done a s).last = s := rfl

@[simp] theorem last_raised {α : Type} (e : Err) (s : State) : (Flow.raised e s : Flow α).last = s := rfl

/-- A flow has some history and keeps the registers of the request. -/
def Keeps (s : State) (x : Flow Unit) : Prop := (∃ seg, History s x.last seg) ∧ SameRequest s x.last

theorem Keeps.bind {s : State} {x : Flow Unit} {f : Unit → State → Flow Unit} (hx : Keeps s x)
    (hf : ∀ t, Keeps t (f () t)) : Keeps s (x.bind f) := by
  cases x with
  | done a t =>
    obtain ⟨⟨seg, h⟩, c⟩ := hx
    obtain ⟨⟨seg', h'⟩, c'⟩ := hf t
    exact ⟨⟨_, h.trans h'⟩, c.trans c'⟩
  | raised e t => exact hx

theorem Straight.keeps {s : State} {tr : List Event} {x : Flow Unit} (h : Straight s tr x) : Keeps s x := by
  rcases h with ⟨t, rfl, hh, hc⟩ | ⟨info, t, rfl, ⟨⟨pre, e, post, a, -, -, -, hh, -⟩, hc⟩⟩
  · exact ⟨⟨_, hh⟩, hc.request⟩
  · exact ⟨⟨_, hh⟩, hc.request⟩

theorem sendByte_keeps (v : Byte) (s : State) : Keeps s (sendByte v s) := by
  rcases sendByte_cases v s with ⟨k, t, -, h, hh, hc, -⟩ |
    ⟨k, info, t, -, h, ⟨⟨pre, e, post, a, -, -, -, hh, -⟩, hc⟩⟩ | ⟨t, h, hh, hc, -⟩ <;>
    rw [h] <;> exact ⟨⟨_, hh⟩, hc.request⟩

theorem sendCommand_keeps (c : Byte) (s : State) : Keeps s (sendCommand c s) :=
  (sendByte_keeps c s).bind fun t => ⟨⟨_, (setByteCnt_history t 1).1⟩, (setByteCnt_history t 1).2⟩

theorem sendData_keeps (d : Byte) (s : State) : Keeps s (sendData d s) :=
  (sendByte_keeps d s).bind fun t => ⟨⟨_, (setByteCnt_history t _).1⟩, (setByteCnt_history t _).2⟩

theorem sendOwn_keeps (ds : List Byte) (s : State) : Keeps s (sendOwn ds s) := by
  induction ds generalizing s with
  | nil => exact ⟨⟨_, History.refl s⟩, SameRequest.refl s⟩
  | cons d ds ih => exact (sendData_keeps d s).bind fun t => ih t

theorem sendPayload_keeps (t : Translate) (es : List Byte) (s : State) : Keeps s (sendPayload t es s) := by
  induction es generalizing s with
  | nil => exact ⟨⟨_, History.refl s⟩, SameRequest.refl s⟩
  | cons e es ih =>
    obtain ⟨h, c⟩ := takeElem_history s es
    obtain ⟨⟨seg, h'⟩, c'⟩ := (sendData_keeps (translate t s e) (s.takeElem es)).bind
      (f := fun _ u => sendPayload t es u) fun u => ih u
    exact ⟨⟨_, h.trans h'⟩, c.trans c'⟩

/-! The frame. -/

theorem setPhase_history (s : State) (p : Phase) : History s (s.setPhase p) [] :=
  (History.refl s).relabel (by simp)

theorem accept_history (s : State) (op : BitVec 3) (r : Request) : History s (s.accept op r) [] :=
  (History.refl s).relabel (by simp)

theorem complete_history (s : State) : History s s.complete [] := (History.refl s).relabel (by simp)

theorem abort_history (s : State) (e : Err) : History s (s.abort e) [] := (History.refl s).relabel (by simp)

theorem turnAway_history (s : State) : History s s.turnAway [] := (History.refl s).relabel (by simp)

theorem setReply_history (s : State) (r : Reply) : History s (s.setReply r) [] :=
  (History.refl s).relabel (by simp)

theorem raise_history (s : State) (e : Err) : History s (s.raise e) [] := by
  by_cases h : s.phase = .idle
  · rw [raise_idle s e h]; exact setReply_history s _
  · rw [raise_busy s e h]; exact abort_history s e

theorem closeFrame_history (x : Flow Unit) : History x.last (closeFrame x) [] := by
  cases x with
  | done a s => exact complete_history s
  | raised e s => exact abort_history s e

theorem settle_history (x : Flow Unit) : History x.last (settle x) [] := by
  cases x with
  | done a s => exact setReply_history s _
  | raised e s => exact raise_history s e

/-- A flow followed by another keeps a history from the first state to the last. -/
theorem bind_history {s : State} {x : Flow Unit} {f : Unit → State → Flow Unit}
    (hx : ∃ seg, History s x.last seg) (hf : ∀ t, ∃ seg, History t (f () t).last seg) :
    ∃ seg, History s (x.bind f).last seg := by
  cases x with
  | done a t =>
    obtain ⟨a, h⟩ := hx
    obtain ⟨b, h'⟩ := hf t
    exact ⟨a ++ b, h.trans h'⟩
  | raised e t => exact hx

/-- A whole transaction has a history, whatever the answers, when its body has one (R100). -/
theorem transaction_history (cmd : Byte) (body : State → Flow Unit) (s : State)
    (hb : ∀ t, ∃ seg, History t (body t).last seg) : ∃ seg, History s (transaction cmd body s) seg := by
  have h₀ : History s ((s.setPhase .start).setByteCnt 0) [] := by
    simpa using (setPhase_history s .start).trans (setByteCnt_history _ 0).1
  have key := bind_history (f := fun _ u => (sendCommand cmd (u.setPhase .transfer)).bind fun _ u =>
      (body u).bind fun _ u => stopCondition (u.setPhase .stop))
    (startCondition_straight ((s.setPhase .start).setByteCnt 0)).keeps.1 (fun t => by
      obtain ⟨a, ha⟩ := bind_history (f := fun _ u => (body u).bind fun _ u => stopCondition (u.setPhase .stop))
        (sendCommand_keeps cmd (t.setPhase .transfer)).1 (fun u => bind_history (hb u) fun v => by
          obtain ⟨a, ha⟩ := (stopCondition_straight (v.setPhase .stop)).keeps.1
          exact ⟨_, (setPhase_history v .stop).trans ha⟩)
      exact ⟨_, (setPhase_history t .transfer).trans ha⟩)
  obtain ⟨a, ha⟩ := key
  exact ⟨_, (h₀.trans ha).trans (closeFrame_history _)⟩

end Sys2Proof.Machine
end

