-- ==== Sys2Proof/Laws/Exec.lean ====
section
/-! SUPPORT. What an instruction can do to the history, and what a tick can do. -/

namespace Sys2Proof.Machine

open Sys2Proof.Safety

theorem serve_history (op : BitVec 3) (r : Request) (run : State → State) (s : State)
    (h : ∀ t, ∃ seg, History t (run t) seg) : ∃ seg, History s (serve op r run s) seg := by
  by_cases hp : s.phase = .idle
  · rw [serve_idle op r run s hp]
    obtain ⟨seg, hh⟩ := h (s.accept op r)
    exact ⟨_, (accept_history s op r).trans hh⟩
  · rw [serve_busy op r run s hp]
    exact ⟨_, turnAway_history s⟩

theorem runWrite_history (t : Translate) (s : State) : ∃ seg, History s (runWrite t s) seg :=
  transaction_history _ _ s fun u => (sendPayload_keeps t u.payload u).1

theorem settle_keeps_history {s : State} {x : Flow Unit} (h : Keeps s x) :
    ∃ seg, History s (settle x) seg := by
  obtain ⟨⟨seg, hh⟩, -⟩ := h
  exact ⟨_, hh.trans (settle_history x)⟩

/-- Every instruction that answers a next state has a history: it adds events and takes none back, uses
one answer per access, keeps the latches true, requests only bit-period delays, and leaves the
configuration with its ROMs and what is placed for the machine alone (R21, R38). -/
theorem exec_history (i : Instr) (s t : State) (h : exec i s = .next t) : ∃ seg, History s t seg := by
  cases i with
  | cmdDataAutoinc => cases h; exact settle_keeps_history (sendCommand_keeps _ s)
  | cmdAddr a => cases h; exact settle_keeps_history (sendCommand_keeps _ s)
  | cmdBrightOn l => cases h; exact settle_keeps_history (sendCommand_keeps _ s)
  | data d => cases h; exact settle_keeps_history (sendData_keeps _ s)
  | init r =>
    cases h
    exact serve_history _ _ _ s fun u => transaction_history _ _ u fun v => (sendOwn_keeps _ v).1
  | clear r =>
    cases h
    exact serve_history _ _ _ s fun u => transaction_history _ _ u fun v => (sendOwn_keeps _ v).1
  | writeRaw r => cases h; exact serve_history _ _ _ s fun u => runWrite_history _ u
  | writeHex r => cases h; exact serve_history _ _ _ s fun u => runWrite_history _ u
  | writeChars r =>
    simp only [exec, execWriteChars, Host.Outcome.next.injEq] at h
    split at h
    · rw [← h]; exact serve_history _ _ _ s fun u => runWrite_history _ u
    · rw [← h]; exact ⟨_, turnAway_history s⟩
  | setBrightness r =>
    cases h
    exact serve_history _ _ _ s fun u => transaction_history _ _ u fun v => (sendOwn_keeps _ v).1
  | reservedOp6 r => cases h; exact ⟨_, turnAway_history s⟩
  | reservedOp7 r => cases h; exact ⟨_, turnAway_history s⟩
  | start => cases h; exact settle_keeps_history (startCondition_straight s).keeps
  | sendBit b => cases h; exact settle_keeps_history (sendBit_straight b s).keeps
  | sendByte v => cases h; exact settle_keeps_history (sendByte_keeps v s)
  | stop => cases h; exact settle_keeps_history (stopCondition_straight s).keeps
  | hexDigit n => cases h; exact ⟨_, setReply_history s _⟩
  | character c =>
    simp only [exec, execCharacter] at h
    split at h
    · cases h; exact ⟨_, setReply_history s _⟩
    · cases h
  | bitDelay => cases h; exact ⟨_, setReply_history s _⟩

/-! The event-grain machine. -/

@[simp] theorem tick_idle (s : State) (h : s.todo = []) : tick s = s := by simp [tick, h]

theorem tick_cons (s : State) (m : Micro) (rest : List Micro) (h : s.todo = m :: rest) :
    tick s = match micro m (s.setTodo rest) with
      | .done _ t => t
      | .raised e t => t.raise e := by
  cases hm : micro m (s.setTodo rest) <;> simp [tick, h, hm]

@[simp] theorem ticks_zero (s : State) : ticks 0 s = s := rfl

theorem ticks_succ (n : Nat) (s : State) : ticks (n + 1) s = ticks n (tick s) := rfl

theorem ticks_add (m n : Nat) (s : State) : ticks (m + n) s = ticks n (ticks m s) := by
  induction m generalizing s with
  | zero => simp
  | succ m ih => rw [Nat.succ_add, ticks_succ, ticks_succ, ih]

theorem ticks_idle (n : Nat) (s : State) (h : s.todo = []) : ticks n s = s := by
  induction n with
  | zero => rfl
  | succ n ih => rw [ticks_succ, tick_idle s h, ih]

theorem setTodo_history (s : State) (ms : List Micro) : History s (s.setTodo ms) [] :=
  (History.refl s).relabel (by simp)

theorem setByteCnt_history' (s : State) (n : Nat) : History s (s.setByteCnt n) [] :=
  (setByteCnt_history s n).1

/-- A micro-operation makes at most one event. -/
theorem micro_history (m : Micro) (s : State) :
    ∃ seg, History s (micro m s).last seg ∧ seg.length ≤ 1 := by
  cases m with
  | phase p => exact ⟨_, setPhase_history s p, by simp⟩
  | clk b =>
    rcases clkSet_cases b s with ⟨t, h, hh, -⟩ | ⟨info, t, h, -, hh, -⟩ <;>
      exact ⟨_, by simpa [micro, h] using hh, by simp⟩
  | dio b =>
    rcases dioSet_cases b s with ⟨t, h, hh, -⟩ | ⟨info, t, h, -, hh, -⟩ <;>
      exact ⟨_, by simpa [micro, h] using hh, by simp⟩
  | dioShreg =>
    rcases dioSet_cases (s.shreg.getLsbD 0) s with ⟨t, h, hh, -⟩ | ⟨info, t, h, -, hh, -⟩ <;>
      exact ⟨_, by rw [micro, h]; exact hh, by simp⟩
  | wait => exact ⟨_, (delay_history s).1, by simp⟩
  | load v => exact ⟨_, (loadByte_history s v).1, by simp⟩
  | shift => exact ⟨_, (shiftByte_history s).1, by simp⟩
  | pollReset => exact ⟨_, (setPollCnt_history s _).1, by simp⟩
  | poll =>
    simp only [micro]
    split
    · rcases dioRead_cases s with ⟨r, t, h, -, hh, -⟩ | ⟨info, t, h, -, hh, -⟩
      · cases r with
        | false => exact ⟨_, by simpa [h] using hh, by simp⟩
        | true => exact ⟨_, by simpa [h] using hh.trans (setTodo_history t _), by simp⟩
      · exact ⟨_, by simpa [h] using hh, by simp⟩
    · exact ⟨_, History.refl s, by simp⟩
  | pollBump => exact ⟨_, (setPollCnt_history s _).1, by simp⟩
  | firstByte => exact ⟨_, setByteCnt_history' s _, by simp⟩
  | nextByte => exact ⟨_, setByteCnt_history' s _, by simp⟩
  | elem t =>
    simp only [micro]
    split
    · exact ⟨_, History.refl s, by simp⟩
    · exact ⟨_, (takeElem_history s _).1.trans (setTodo_history _ _), by simp⟩
  | finish => exact ⟨_, complete_history s, by simp⟩

/-! The step. -/

theorem advance_tick (s : State) (h : s.todo ≠ []) : advance s = tick s := by
  cases ht : s.todo with
  | nil => exact absurd ht h
  | cons m ms => simp [advance, ht]

theorem advance_present (s : State) (q : HostRequest) (qs : List HostRequest) (h : s.todo = [])
    (hq : s.requests = q :: qs) : advance s = present q.op q.operands (s.setRequests qs) := by
  simp [advance, h, nextRequest, hq]

theorem advance_idle (s : State) (h : s.todo = []) (hq : s.requests = []) : advance s = s := by
  simp [advance, h, nextRequest, hq]

/-- Everything a step can be: CORE's own step, or an instruction placed to be run whole, or the stop on
bytes that are no word. -/
theorem step_cases (s : State) :
    step s = .next (advance s)
      ∨ (∃ c cs i, s.todo = [] ∧ s.calls = c :: cs ∧ decode c = .instr i ∧ step s = exec i (s.setCalls cs))
      ∨ (∃ c cs e, s.todo = [] ∧ s.calls = c :: cs ∧ decode c = .rejected e
          ∧ step s = .fault .malformedCall) := by
  cases ht : s.todo with
  | cons m ms => exact .inl (by simp [step, ht])
  | nil =>
    cases hc : s.calls with
    | nil => exact .inl (by simp [step, ht, nextCall, hc])
    | cons c cs =>
      cases hd : decode c with
      | instr i => exact .inr (.inl ⟨c, cs, i, rfl, rfl, hd, by simp [step, ht, nextCall, hc, hd]⟩)
      | rejected e => exact .inr (.inr ⟨c, cs, e, rfl, rfl, hd, by simp [step, ht, nextCall, hc, hd]⟩)

/-- Presenting a request makes no event: it starts the operation, or is turned away (R26, R140). -/
theorem present_history (op : BitVec 3) (r : Request) (s : State) : History s (present op r s) [] := by
  unfold present
  cases s.phase with
  | idle =>
    dsimp only
    split
    · exact (History.refl s).relabel (by simp)
    · exact turnAway_history s
  | start => exact turnAway_history s
  | transfer => exact turnAway_history s
  | stop => exact turnAway_history s

end Sys2Proof.Machine
end

