-- ==== Sys2Proof/Laws/PerInstr.lean ====
section
/-! SUPPORT. The per-instruction family `TableMatch`: the first byte of an instruction's word has the
bits its row of spec/opcode_table.json fixes, read through the row's mask. -/

namespace Sys2Proof.Laws.TableMatch

/-- The space, mask and match of an instruction's row, copied from spec/opcode_table.json; a row of
width 0 fixes nothing. -/
def row : Instr → Space × Byte × Byte
  | .cmdDataAutoinc => (.command, 0xFF#8, 0x40#8)
  | .cmdAddr _ => (.command, 0xF0#8, 0xC0#8)
  | .cmdBrightOn _ => (.command, 0xF8#8, 0x88#8)
  | .data _ => (.data, 0x00#8, 0x00#8)
  | .init _ => (.request, 0x7#8, 0x0#8)
  | .clear _ => (.request, 0x7#8, 0x1#8)
  | .writeRaw _ => (.request, 0x7#8, 0x2#8)
  | .writeHex _ => (.request, 0x7#8, 0x3#8)
  | .writeChars _ => (.request, 0x7#8, 0x4#8)
  | .setBrightness _ => (.request, 0x7#8, 0x5#8)
  | .reservedOp6 _ => (.request, 0x7#8, 0x6#8)
  | .reservedOp7 _ => (.request, 0x7#8, 0x7#8)
  | .start => (.transport, 0x3#8, 0x0#8)
  | .sendBit _ => (.transport, 0x3#8, 0x1#8)
  | .sendByte _ => (.transport, 0x3#8, 0x2#8)
  | .stop => (.transport, 0x3#8, 0x3#8)
  | .hexDigit _ => (.encoder, 0x1#8, 0x0#8)
  | .character _ => (.encoder, 0x1#8, 0x1#8)
  | .bitDelay => (.build, 0x0#8, 0x0#8)

/-- The word stands in its row's space and its first byte carries the row's fixed bits. -/
def Statement (i : Instr) : Prop :=
  (encode i).space = (row i).1
    ∧ ∀ b ∈ (encode i).bytes.head?, b &&& (row i).2.1 = (row i).2.2

theorem cmdDataAutoinc : Statement .cmdDataAutoinc := by simp [Statement, encode, row]

theorem cmdAddr (a : BitVec 4) : Statement (.cmdAddr a) := by
  refine ⟨rfl, fun b hb => ?_⟩
  simp only [encode, List.head?_cons, Option.mem_some_iff] at hb
  subst hb
  revert a
  decide

theorem cmdBrightOn (l : BitVec 3) : Statement (.cmdBrightOn l) := by
  refine ⟨rfl, fun b hb => ?_⟩
  simp only [encode, List.head?_cons, Option.mem_some_iff] at hb
  subst hb
  revert l
  decide

theorem data (d : Byte) : Statement (.data d) := by simp [Statement, encode, row]

theorem init (r : Request) : Statement (.init r) := by simp [Statement, encode, encodeRequest, row]

theorem clear (r : Request) : Statement (.clear r) := by simp [Statement, encode, encodeRequest, row]

theorem writeRaw (r : Request) : Statement (.writeRaw r) := by simp [Statement, encode, encodeRequest, row]

theorem writeHex (r : Request) : Statement (.writeHex r) := by simp [Statement, encode, encodeRequest, row]

theorem writeChars (r : Request) : Statement (.writeChars r) := by
  simp [Statement, encode, encodeRequest, row]

theorem setBrightness (r : Request) : Statement (.setBrightness r) := by
  simp [Statement, encode, encodeRequest, row]

theorem reservedOp6 (r : Request) : Statement (.reservedOp6 r) := by
  simp [Statement, encode, encodeRequest, row]

theorem reservedOp7 (r : Request) : Statement (.reservedOp7 r) := by
  simp [Statement, encode, encodeRequest, row]

theorem start : Statement .start := by simp [Statement, encode, row]

theorem sendBit (b : Level) : Statement (.sendBit b) := by simp [Statement, encode, row]

theorem sendByte (v : Byte) : Statement (.sendByte v) := by simp [Statement, encode, row]

theorem stop : Statement .stop := by simp [Statement, encode, row]

theorem hexDigit (n : Byte) : Statement (.hexDigit n) := by simp [Statement, encode, row]

theorem character (c : Byte) : Statement (.character c) := by simp [Statement, encode, row]

theorem bitDelay : Statement .bitDelay := by simp [Statement, encode, row]

end Sys2Proof.Laws.TableMatch
end

