-- ==== Sys2Proof/Tests/Slice0.lean ====
section
/-! SUPPORT. The model's own tests. Expected values come from spec/95_test_vectors.md (the row named in
each comment) or from the tables of 30_encoding.md; then, for every statement with hypotheses, a witness
that meets all of them together. -/

namespace Sys2Proof.Tests

open Sys2Proof.Machine Sys2Proof.Safety

/-- The state after reset with instructions placed to be run whole, and answers. -/
def placed (cs : List Call) (as : List Answer) : State :=
  { State.reset with calls := cs, answers := as }

/-- The state after reset with requests of HOST and answers. -/
def hosted (qs : List HostRequest) (as : List Answer) : State :=
  { State.reset with requests := qs, answers := as }

/-- `n` accesses that complete, every read low. -/
def lows (n : Nat) : List Answer := List.replicate n (Answer.done false)

/-- `n` accesses that complete, every read high. -/
def highs (n : Nat) : List Answer := List.replicate n (Answer.done true)

/-- The state one step later (the same state if the step stops). -/
def after (s : State) : State :=
  match step s with
  | .next t => t
  | .fault _ => s
  | .refused _ => s

/-- The state after one instruction (the same state if it stops). -/
def ran (i : Instr) (s : State) : State :=
  match exec i s with
  | .next t => t
  | .fault _ => s
  | .refused _ => s

/-- The trace tokens of 95_test_vectors.md section 0 (reference configuration: one microsecond). -/
abbrev C0 : Event := .clkSet false
abbrev C1 : Event := .clkSet true
abbrev D0 : Event := .dioSet false
abbrev D1 : Event := .dioSet true
abbrev R0 : Event := .dioRead false
abbrev R1 : Event := .dioRead true
abbrev W : Event := .delay 1

/-! WellFormed: the one check refuses an ill-formed term of each constructor it concerns. -/

theorem test_wellFormed_refuses_writeChars : WellFormed false (.writeChars ⟨0#8, 0#8, []⟩) = false := by decide

theorem test_wellFormed_refuses_character : WellFormed false (.character 0x41#8) = false := by decide

theorem test_wellFormed_admits : WellFormed true (.character 0x41#8) = true
    ∧ WellFormed false (.hexDigit 0#8) = true := by decide

/-! Decoding: words written out from 30_encoding.md R50, R60, R61. -/

theorem test_decode_cmdDataAutoinc : decode ⟨.command, [0b01000000#8]⟩ = .instr .cmdDataAutoinc := by decide

theorem test_decode_cmdAddr : decode ⟨.command, [0b11000011#8]⟩ = .instr (.cmdAddr 3#4) := by decide

theorem test_decode_cmdBrightOn : decode ⟨.command, [0b10001010#8]⟩ = .instr (.cmdBrightOn 2#3) := by decide

/-- A data byte may equal a command pattern (R51). -/
theorem test_decode_data : decode ⟨.data, [0b01000000#8]⟩ = .instr (.data 0x40#8) := by decide

theorem test_decode_init : decode ⟨.request, [0b000#8, 0#8, 0#8]⟩ = .instr (.init ⟨0#8, 0#8, []⟩) := by decide

theorem test_decode_clear : decode ⟨.request, [0b001#8, 0#8, 0#8]⟩ = .instr (.clear ⟨0#8, 0#8, []⟩) := by decide

/-- Row M6. -/
theorem test_decode_writeRaw : decode ⟨.request, [0b010#8, 0x13#8, 0#8, 0x40#8, 0xC3#8, 0x8F#8]⟩
    = .instr (.writeRaw ⟨0x13#8, 0#8, [0x40#8, 0xC3#8, 0x8F#8]⟩) := by decide

/-- Row M8. -/
theorem test_decode_writeHex : decode ⟨.request, [0b011#8, 0#8, 0#8, 0#8, 1#8, 15#8]⟩
    = .instr (.writeHex ⟨0#8, 0#8, [0#8, 1#8, 15#8]⟩) := by decide

/-- Row M12. -/
theorem test_decode_writeChars : decode ⟨.request, [0b100#8, 2#8, 0#8, 0x61#8]⟩
    = .instr (.writeChars ⟨2#8, 0#8, [0x61#8]⟩) := by decide

/-- Row M16. -/
theorem test_decode_setBrightness : decode ⟨.request, [0b101#8, 0#8, 0xFF#8]⟩
    = .instr (.setBrightness ⟨0#8, 0xFF#8, []⟩) := by decide

theorem test_decode_reserved :
    decode ⟨.request, [0b110#8, 1#8, 2#8]⟩ = .instr (.reservedOp6 ⟨1#8, 2#8, []⟩)
      ∧ decode ⟨.request, [0b111#8, 1#8, 2#8]⟩ = .instr (.reservedOp7 ⟨1#8, 2#8, []⟩)
      ∧ decode ⟨.request, [0b1000#8, 1#8, 2#8]⟩ = .rejected .selectTooWide := by decide

theorem test_decode_transport :
    decode ⟨.transport, [0b00#8, 0#8]⟩ = .instr .start
      ∧ decode ⟨.transport, [0b01#8, 1#8]⟩ = .instr (.sendBit true)
      ∧ decode ⟨.transport, [0b10#8, 0x40#8]⟩ = .instr (.sendByte 0x40#8)
      ∧ decode ⟨.transport, [0b11#8, 0#8]⟩ = .instr .stop
      ∧ decode ⟨.transport, [0b01#8, 2#8]⟩ = .rejected .operandTooWide := by decide

theorem test_decode_encoder :
    decode ⟨.encoder, [0b0#8, 0x1F#8]⟩ = .instr (.hexDigit 0x1F#8)
      ∧ decode ⟨.encoder, [0b1#8, 0x2D#8]⟩ = .instr (.character 0x2D#8)
      ∧ decode ⟨.encoder, [0b10#8, 0x2D#8]⟩ = .rejected .selectTooWide := by decide

theorem test_decode_bitDelay : decode ⟨.build, []⟩ = .instr .bitDelay := by decide

theorem test_decode_display_off : decode ⟨.command, [0x80#8]⟩ = .rejected .notACommandByte := by decide

/-! Table words: the row's instruction is read and runs as the first after reset. -/

theorem test_table_words :
    decodeTableWord 8 0x40 = some .cmdDataAutoinc ∧ decodeTableWord 8 0xC0 = some (.cmdAddr 0#4)
      ∧ decodeTableWord 8 0x88 = some (.cmdBrightOn 0#3)
      ∧ decodeTableWord 3 0x5 = some (.setBrightness ⟨0#8, 0#8, []⟩)
      ∧ decodeTableWord 2 0x3 = some .stop ∧ decodeTableWord 1 0x1 = some (.character 0#8)
      ∧ decodeTableWord 0 0 = some .bitDelay := by decide

theorem test_table_word_runs :
    step (State.reset.withFetchWord 3 2) = exec (.writeRaw ⟨0#8, 0#8, []⟩) State.reset := by rfl

/-! ENC (sections 3.1, 3.2) and the bit period (section 3.3). -/

theorem test_hexDigit_source_entries :
    (ran (.hexDigit 0x00#8) State.reset).reply = .pattern 0x3F#8
      ∧ (ran (.hexDigit 0xF1#8) State.reset).reply = .pattern 0x06#8
      ∧ (ran (.hexDigit 0x1F#8) State.reset).reply = .pattern 0x71#8 := by decide

theorem test_hexDigit_table :
    (ran (.hexDigit 0x2C#8) State.reset).reply = .pattern 0x39#8
      ∧ (ran (.hexDigit 0x98#8) State.reset).reply = .pattern 0x7F#8 := by decide

theorem test_character_blank :
    (ran (.character 0x40#8) State.reset).reply = .pattern 0x00#8
      ∧ (ran (.character 0x5B#8) State.reset).reply = .pattern 0x00#8
      ∧ (ran (.character 0x60#8) State.reset).reply = .pattern 0x00#8
      ∧ (ran (.character 0x7B#8) State.reset).reply = .pattern 0x00#8
      ∧ (ran (.character 0x39#8) State.reset).reply = .pattern 0x00#8
      ∧ (ran (.character 0xC1#8) State.reset).reply = .pattern 0x00#8 := by decide

theorem test_character_letters :
    (ran (.character 0x5A#8) State.reset).reply = .pattern 0x5B#8
      ∧ (ran (.character 0x7A#8) State.reset).reply = .pattern 0x5B#8
      ∧ (ran (.character 0x68#8) State.reset).reply = .pattern 0x76#8
      ∧ (ran (.character 0x4C#8) State.reset).reply = .pattern 0x38#8 := by decide

theorem test_bitDelay :
    delayUs { referenceConfig with maxFreqKHz := 1, maxFreqLegal := by decide } = 500 ∧ delayUs { referenceConfig with maxFreqKHz := 7, maxFreqLegal := by decide } = 72
      ∧ delayUs { referenceConfig with maxFreqKHz := 333, maxFreqLegal := by decide } = 2 ∧ delayUs { referenceConfig with maxFreqKHz := 499, maxFreqLegal := by decide } = 2
      ∧ delayUs { referenceConfig with maxFreqKHz := 501, maxFreqLegal := by decide } = 1 ∧ delayUs { referenceConfig with maxFreqKHz := 100000, maxFreqLegal := by decide } = 1
      ∧ (ran .bitDelay State.reset).reply = .micros 1 := by decide

/-! Command bytes (section 3.4). -/

theorem test_cmdAddr_bytes :
    cmdAddrByte referenceConfig 0x13#8 = 0xC3#8 ∧ cmdAddrByte referenceConfig 0xFF#8 = 0xCF#8 ∧ cmdAddrByte referenceConfig 0x40#8 = 0xC0#8 := by decide

theorem test_brightness_bytes :
    cmdBrightByte referenceConfig 0x0A#8 = 0x8A#8 ∧ cmdBrightByte referenceConfig 0xF8#8 = 0x88#8 ∧ cmdBrightByte referenceConfig 0x77#8 = 0x8F#8 := by decide

/-! The straight primitives and their faults (section 3.5). -/

theorem test_sendBit : (ran (.sendBit true) (placed [] (lows 3))).events = [C0, D1, C1, W] := by decide

/-- `SEND_BIT(1)`, fault at access 2: CLK low, DIO holding no known value. -/
theorem test_sendBit_fault :
    let t := ran (.sendBit true) (placed [] (lows 1 ++ [Answer.failed 9] ++ lows 1))
    t.events = [C0, .failed (.dio true)] ∧ t.clkO = false ∧ t.clkKnown = true ∧ t.dioKnown = false
      ∧ t.reply = .raised (.lineFault 9) := by decide

theorem test_start :
    let t := ran .start (placed [] (lows 4))
    t.events = [C0, D1, C1, W, D0] ∧ t.clkO = true ∧ t.dioO = false := by decide

/-- `START`, fault at access 4. -/
theorem test_start_fault :
    let t := ran .start (placed [] (lows 3 ++ [Answer.failed 0]))
    t.events = [C0, D1, C1, W, .failed (.dio false)] ∧ t.clkO = true ∧ t.clkKnown = true
      ∧ t.dioKnown = false := by decide

theorem test_stop :
    let t := ran .stop (placed [] (lows 4))
    t.events = [C0, D0, C1, W, D1, W] ∧ t.clkO = true ∧ t.dioO = true := by decide

/-- `STOP`, fault at access 3. -/
theorem test_stop_fault :
    let t := ran .stop (placed [] (lows 2 ++ [Answer.failed 0]))
    t.events = [C0, D0, .failed (.clk true)] ∧ t.clkKnown = false ∧ t.dioO = false
      ∧ t.dioKnown = true := by decide

/-! `SEND_BYTE` (section 3.6). -/

/-- Case B2: `0xA5`, reads 1, 1, 0. -/
theorem test_sendByte_B2 :
    let t := ran (.sendByte 0xA5#8) (placed [] (lows 27 ++ highs 2 ++ lows 1))
    dioLevels t.events = [true, false, true, false, false, true, false, true, true]
      ∧ t.events.drop 32 = [C0, D1, C1, W, R1, W, R1, W, R0] ∧ t.pollCnt = 2#8 ∧ t.reply = .ok := by decide

/-- Case B4: never acknowledged. -/
theorem test_sendByte_B4 :
    let t := ran (.sendByte 0xFF#8) (placed [] (lows 27 ++ highs 255))
    t.reply = .raised .ackTimeout ∧ t.resultKnown = false := by decide +kernel

/-! The wire bytes. -/

theorem test_cmdDataAutoinc :
    let t := ran .cmdDataAutoinc (placed [] (lows 28))
    dioLevels t.events = [false, false, false, false, false, false, true, false, true]
      ∧ t.byteCnt = 1 := by decide

theorem test_cmdAddr :
    dioLevels (ran (.cmdAddr 5#4) (placed [] (lows 28))).events
      = [true, false, true, false, false, false, true, true, true] := by decide

theorem test_cmdBrightOn :
    dioLevels (ran (.cmdBrightOn 7#3) (placed [] (lows 28))).events
      = [true, true, true, true, false, false, false, true, true] := by decide

theorem test_data :
    (ran (.data 0x80#8) { placed [] (lows 28) with byteCnt := 2 }).byteCnt = 3 := by decide

/-! The operations without failure (section 3.7). -/

/-- Row M1: the 48 events of `INIT`. -/
theorem test_init_M1 :
    (after (placed [⟨.request, [0#8, 0#8, 0#8]⟩] (lows 36))).events
      = [C0, D1, C1, W, D0,
         C0, D0, C1, W, C0, D0, C1, W, C0, D0, C1, W, C0, D0, C1, W, C0, D0, C1, W, C0, D0, C1, W,
         C0, D1, C1, W, C0, D0, C1, W, C0, D1, C1, W, R0,
         C0, D0, C1, W, D1, W] := by decide

/-- Row M2: `CLEAR`. -/
theorem test_clear_M2 :
    let t := after (placed [⟨.request, [1#8, 7#8, 7#8, 9#8]⟩] (lows 148))
    readWire t.events = [.start, .byte 0xC0#8, .byte 0#8, .byte 0#8, .byte 0#8, .byte 0#8, .stop]
      ∧ t.taken = 0 ∧ t.byteCnt = 5 ∧ t.result = .ok := by decide +kernel

/-- Row M5: `WRITE_RAW 1, [0xFF, 0x80]`. -/
theorem test_writeRaw_M5 :
    let t := after (placed [⟨.request, [2#8, 1#8, 0#8, 0xFF#8, 0x80#8]⟩] (lows 92))
    readWire t.events = [.start, .byte 0xC1#8, .byte 0xFF#8, .byte 0x80#8, .stop]
      ∧ t.events.length = 122 ∧ t.taken = 2 ∧ t.byteCnt = 3 := by decide +kernel

/-- Row M9: `WRITE_HEX 0, [0x10, 0xF1, 0x1F]`. -/
theorem test_writeHex_M9 :
    readWire (after (placed [⟨.request, [3#8, 0#8, 0#8, 0x10#8, 0xF1#8, 0x1F#8]⟩] (lows 120))).events
      = [.start, .byte 0xC0#8, .byte 0x3F#8, .byte 0x06#8, .byte 0x71#8, .stop] := by decide +kernel

/-- Row M13: `WRITE_CHARS 0, ['H', 'E', 'L', 'P']`. -/
theorem test_writeChars_M13 :
    readWire (after (placed [⟨.request, [4#8, 0#8, 0#8, 0x48#8, 0x45#8, 0x4C#8, 0x50#8]⟩] (lows 148))).events
      = [.start, .byte 0xC0#8, .byte 0x76#8, .byte 0x79#8, .byte 0x38#8, .byte 0x73#8, .stop] := by
  decide +kernel

/-- Row M15: `SET_BRIGHTNESS 8`. -/
theorem test_setBrightness_M15 :
    let t := after (placed [⟨.request, [5#8, 0#8, 8#8]⟩] (lows 36))
    readWire t.events = [.start, .byte 0x88#8, .stop] ∧ t.phase = .idle ∧ t.clkO = true
      ∧ t.dioO = true := by decide +kernel

/-- Program P6: a reserved code is refused, and the machine goes on with the next request: one step for the
refusal, one for the acceptance, and the first event of `START` in the third. -/
theorem test_reserved_P6 :
    let s := hosted [⟨6#3, 0#8, 0#8, []⟩, ⟨2#3, 0xF5#8, 0#8, []⟩] (lows 36)
    (after s).reply = .notAccepted ∧ (after s).events = [] ∧ (after s).phase = .idle
      ∧ (after (after s)).phase = .start ∧ (after (after s)).addr = 0xF5#8
      ∧ (after (after (after s))).events = [C0] ∧ (after (after (after s))).requests = [] := by decide

/-- Row M1 as HOST requests it, one event a step: 48 events, and steps that only move `PHASE` and the working
registers. -/
theorem test_init_steps :
    (runs 90 (hosted [⟨0#3, 0#8, 0#8, []⟩] (lows 36))).map (fun t => (readWire t.events, t.events.length, t.result))
      = some ([.start, .byte 0x40#8, .stop], 48, .ok) := by decide +kernel

/-- A request while an operation is in progress has no effect (R26). -/
theorem test_reserved7_and_busy :
    ran (.reservedOp7 ⟨0#8, 0#8, []⟩) State.reset = { State.reset with reply := .notAccepted }
      ∧ (ran (.init ⟨0#8, 0#8, []⟩) { State.reset with phase := .transfer }).events = [] := by decide

/-! The operations that abort (section 3.9). -/

/-- Row X2: the third byte is never acknowledged. -/
theorem test_abort_X2 :
    let t := after (placed [⟨.request, [2#8, 0#8, 0#8, 0x11#8, 0x22#8, 0x33#8]⟩] (lows 87 ++ highs 255))
    t.result = .ackTimeout ∧ t.taken = 2 ∧ t.byteCnt = 2 ∧ t.payload = [0x33#8]
      ∧ t.phase = .idle := by decide +kernel

/-- Row X9: fault at access 36, the last drive of `STOP`. -/
theorem test_abort_X9 :
    let t := after (placed [⟨.request, [5#8, 0#8, 7#8]⟩] (lows 35 ++ [Answer.failed 4]))
    t.result = .lineFault 4 ∧ readWire t.events = [.start, .byte 0x8F#8] ∧ t.clkO = true
      ∧ t.clkKnown = true ∧ t.dioKnown = false ∧ t.byteCnt = 1 := by decide +kernel

/-- Row X10 at the grain of events: `WRITE_CHARS 0x12, ['H', 'i', '!']`, fault at access 68. -/
theorem test_ticks_X10 :
    let t := ticks 200 (present 4#3 ⟨0x12#8, 0#8, [0x48#8, 0x69#8, 0x21#8]⟩ (placed [] (lows 67 ++ [Answer.failed 1])))
    readWire t.events = [.start, .byte 0xC2#8, .byte 0x76#8] ∧ t.events.length = 89 ∧ t.taken = 2
      ∧ t.byteCnt = 2 ∧ t.phase = .idle ∧ t.result = .lineFault 1 ∧ t.clkO = false
      ∧ t.dioKnown = false := by decide +kernel

/-! Witnesses: each meets every hypothesis of the statement it names. -/

theorem drives_lows (n : Nat) : Drives n (lows n) := by
  refine ⟨by simp [lows], fun a ha => ?_⟩
  rw [List.eq_of_mem_replicate ha]
  rfl

/-- A byte acknowledged at its first read. -/
theorem byteAcked_lows : ByteAcked 0 (lows 28) :=
  ⟨by decide, lows 27, drives_lows 27, by decide⟩

/-- The latest acknowledgement: the 255th read. -/
theorem byteAcked_last : ByteAcked 254 (lows 27 ++ highs 254 ++ lows 1) :=
  ⟨by decide, lows 27, drives_lows 27, rfl⟩

theorem byteUnacked_highs : ByteUnacked (lows 27 ++ highs 255) := ⟨lows 27, drives_lows 27, rfl⟩

/-- The answers of a transaction of `ks.length` bytes. -/
def transactionAnswers (n : Nat) : List Answer := lows 4 ++ lows (28 * n) ++ lows 4

theorem bytesAcked_lows (n : Nat) : BytesAcked (List.replicate n 0) (lows (28 * n)) := by
  induction n with
  | zero => rfl
  | succ n ih =>
    exact ⟨lows 28, lows (28 * n), by
      rw [lows, lows, lows, List.replicate_append_replicate, Nat.mul_succ, Nat.add_comm],
      byteAcked_lows, ih⟩

theorem transactionAcked_lows (n : Nat) : TransactionAcked (List.replicate n 0) (transactionAnswers n) :=
  ⟨lows 4, lows (28 * n), lows 4, rfl, drives_lows 4, bytesAcked_lows n, drives_lows 4⟩

theorem placed_answers (cs : List Call) (as : List Answer) : (placed cs as).answers = as := rfl

theorem ready_placed (i : Instr) (as : List Answer) (h : WellFormed true i = true) :
    Ready i (placed [] as) := ⟨rfl, rfl, h⟩

theorem witness_EncodeOfDecode : decode ⟨.command, [0xCF#8]⟩ = .instr (.cmdAddr 15#4) := by decide

theorem witness_StepRunsDecodedInstruction :
    (placed [⟨.transport, [0#8, 0#8]⟩] []).todo = []
      ∧ (placed [⟨.transport, [0#8, 0#8]⟩] []).calls = ⟨.transport, [0#8, 0#8]⟩ :: []
      ∧ decode ⟨.transport, [0#8, 0#8]⟩ = .instr .start := by decide

theorem witness_PlacedWordRunsNext : decodeTableWord 8 0xCF = some (.cmdAddr 15#4) := by decide

theorem witness_StepAdvancesRequests :
    (hosted [⟨4#3, 1#8, 2#8, [3#8]⟩] []).phase = .idle ∧ (hosted [⟨4#3, 1#8, 2#8, [3#8]⟩] []).todo = []
      ∧ (hosted [⟨4#3, 1#8, 2#8, [3#8]⟩] []).calls = []
      ∧ (hosted [⟨4#3, 1#8, 2#8, [3#8]⟩] []).requests = ⟨4#3, 1#8, 2#8, [3#8]⟩ :: []
      ∧ ((4#3).toNat < 6 ∧ ((4#3).toNat = 4 → State.reset.cfg.hasChar = true))
      ∧ ((5#3).toNat < 6 ∧ ((5#3).toNat = 4 → State.reset.cfg.hasChar = true))
      ∧ ¬ ((6#3).toNat < 6 ∧ ((6#3).toNat = 4 → State.reset.cfg.hasChar = true)) := by decide

/-- Also the hypotheses of StepAdvancesRequests. -/
theorem witness_RequestRunsToExec :
    (hosted [⟨7#3, 0#8, 0#8, []⟩] []).phase = .idle ∧ (hosted [⟨7#3, 0#8, 0#8, []⟩] []).todo = []
      ∧ (hosted [⟨7#3, 0#8, 0#8, []⟩] []).calls = []
      ∧ (hosted [⟨7#3, 0#8, 0#8, []⟩] []).requests = ⟨7#3, 0#8, 0#8, []⟩ :: []
      ∧ decodeRequest ((7#3).setWidth 8) ⟨0#8, 0#8, []⟩ = .instr (.reservedOp7 ⟨0#8, 0#8, []⟩) := by decide

/-- One witness for each of the three clauses. -/
theorem witness_StepOtherwise :
    { State.reset with todo := [.finish] }.todo ≠ []
      ∧ (State.reset.todo = [] ∧ State.reset.calls = [] ∧ State.reset.requests = [])
      ∧ ((placed [⟨.request, []⟩] []).todo = [] ∧ (placed [⟨.request, []⟩] []).calls = ⟨.request, []⟩ :: []
          ∧ decode ⟨.request, []⟩ = .rejected .wrongLength) := by decide

/-- Both clauses at their boundary: the last letter, and the code next to it. -/
theorem witness_CharacterResult :
    State.reset.cfg.hasChar = true ∧ 25 < 26
      ∧ ∀ k, k < 26 → 0x7B#8 ≠ BitVec.ofNat 8 (0x41 + k) ∧ 0x7B#8 ≠ BitVec.ofNat 8 (0x61 + k) := by decide

theorem witness_EncoderIsCombinational :
    State.reset.cfg.hexRom = (placed [] (lows 1)).cfg.hexRom
      ∧ State.reset.cfg.letterRom = (placed [] (lows 1)).cfg.letterRom
      ∧ State.reset.cfg.hasChar = true ∧ (placed [] (lows 1)).cfg.hasChar = true := by decide

/-- A block built without the letter table, and an instruction it has. -/
theorem witness_WithoutLetterTable :
    { State.reset with cfg := { referenceConfig with hasChar := false } }.cfg.hasChar = false
      ∧ WellFormed false (.hexDigit 0#8) = true
      ∧ ∃ t, exec (.hexDigit 0#8) State.reset = .next t := ⟨rfl, rfl, _, rfl⟩

/-- Each clause: the refused value and the least legal one. -/
theorem witness_ZeroFrequencyNotBuilt : (0 : Nat) = 0 ∧ 0 < 1 := by decide

theorem witness_SendBitCompletes : Drives 3 (lows 3) ∧ (placed [] (lows 3)).answers = lows 3 ++ [] :=
  ⟨drives_lows 3, by decide⟩

theorem witness_StartCompletes : Drives 4 (lows 4) ∧ (placed [] (lows 4)).answers = lows 4 ++ [] :=
  ⟨drives_lows 4, by decide⟩

theorem witness_StopCompletes : Drives 4 (lows 4) ∧ (placed [] (lows 5)).answers = lows 4 ++ lows 1 :=
  ⟨drives_lows 4, by decide⟩

theorem witness_SendByteCompletes :
    ByteAcked 254 (lows 27 ++ highs 254 ++ lows 1)
      ∧ (placed [] (lows 27 ++ highs 254 ++ lows 1)).answers = lows 27 ++ highs 254 ++ lows 1 ++ [] :=
  ⟨byteAcked_last, by rw [List.append_nil]; rfl⟩

theorem witness_SendByteTimesOut :
    ByteUnacked (lows 27 ++ highs 255)
      ∧ (placed [] (lows 27 ++ highs 255)).answers = lows 27 ++ highs 255 ++ [] :=
  ⟨byteUnacked_highs, by rw [List.append_nil]; rfl⟩

/-- Every clause: each primitive in success, and the byte that times out. -/
theorem witness_EventCounts :
    (ran (.sendByte 1#8) (placed [] (lows 28))).reply = .ok
      ∧ (ran (.sendByte 1#8) (placed [] (lows 27 ++ highs 255))).reply = .raised .ackTimeout
      ∧ (ran (.sendBit true) (placed [] (lows 3))).reply = .ok
      ∧ (ran .start (placed [] (lows 4))).reply = .ok ∧ (ran .stop (placed [] (lows 4))).reply = .ok := by
  decide +kernel

theorem witness_EventCounts_segment :
    exec .start (placed [] (lows 4)) = .next (ran .start (placed [] (lows 4)))
      ∧ (ran .start (placed [] (lows 4))).events = (placed [] (lows 4)).events ++ [C0, D1, C1, W, D0] :=
  ⟨rfl, by decide⟩

/-- Both clauses on the state: success, and a fault outside an operation. -/
theorem witness_TransportFrame :
    exec .stop (placed [] (lows 4)) = .next (ran .stop (placed [] (lows 4)))
      ∧ (ran .stop (placed [] (lows 4))).reply = .ok ∧ (placed [] (lows 4)).phase = .idle :=
  ⟨rfl, by decide, rfl⟩

theorem witness_CommandBytesSent : ByteAcked 0 (lows 28) ∧ (placed [] (lows 28)).answers = lows 28 ++ [] :=
  ⟨byteAcked_lows, by decide⟩

theorem witness_DataByteSent : ByteAcked 0 (lows 28) ∧ (placed [] (lows 29)).answers = lows 28 ++ lows 1 :=
  ⟨byteAcked_lows, by decide⟩

/-- Both clauses: a byte that faults, and one that is acknowledged. -/
theorem witness_WireByteFrame :
    exec (.data 1#8) (placed [] [Answer.failed 0]) = .next (ran (.data 1#8) (placed [] [Answer.failed 0]))
      ∧ (ran (.data 1#8) (placed [] [Answer.failed 0])).reply ≠ .ok
      ∧ (ran (.data 1#8) (placed [] (lows 28))).reply = .ok := ⟨rfl, by decide, by decide⟩

theorem witness_InitCompletes :
    Ready (.init ⟨1#8, 2#8, [3#8]⟩) (placed [] (transactionAnswers 1))
      ∧ TransactionAcked [0] (transactionAnswers 1)
      ∧ (placed [] (transactionAnswers 1)).answers = transactionAnswers 1 ++ [] :=
  ⟨ready_placed _ _ rfl, transactionAcked_lows 1, by rw [List.append_nil]; rfl⟩

theorem witness_ClearCompletes :
    Ready (.clear ⟨1#8, 2#8, [3#8]⟩) (placed [] (transactionAnswers 5))
      ∧ TransactionAcked [0, 0, 0, 0, 0] (transactionAnswers 5)
      ∧ (placed [] (transactionAnswers 5)).answers = transactionAnswers 5 ++ [] :=
  ⟨ready_placed _ _ rfl, transactionAcked_lows 5, by rw [List.append_nil]; rfl⟩

/-- The empty payload (row M4) and one of two elements. -/
theorem witness_WriteRawCompletes :
    (Ready (.writeRaw ⟨5#8, 0#8, []⟩) (placed [] (transactionAnswers 1))
        ∧ ([] : List Nat).length = ([] : List Byte).length ∧ TransactionAcked [0] (transactionAnswers 1))
      ∧ Ready (.writeRaw ⟨0xFF#8, 0#8, [0x40#8, 0xC3#8]⟩) (placed [] (transactionAnswers 3))
      ∧ TransactionAcked [0, 0, 0] (transactionAnswers 3)
      ∧ (placed [] (transactionAnswers 3)).answers = transactionAnswers 3 ++ [] :=
  ⟨⟨ready_placed _ _ rfl, rfl, transactionAcked_lows 1⟩, ready_placed _ _ rfl, transactionAcked_lows 3,
   by rw [List.append_nil]; rfl⟩

theorem witness_WriteHexCompletes :
    Ready (.writeHex ⟨0#8, 0#8, [0x10#8, 0xFF#8]⟩) (placed [] (transactionAnswers 3))
      ∧ [0, 0].length = [0x10#8, 0xFF#8].length ∧ TransactionAcked [0, 0, 0] (transactionAnswers 3)
      ∧ (placed [] (transactionAnswers 3)).answers = transactionAnswers 3 ++ [] :=
  ⟨ready_placed _ _ rfl, rfl, transactionAcked_lows 3, by rw [List.append_nil]; rfl⟩

/-- Row M11: two characters with no mapping. -/
theorem witness_WriteCharsCompletes :
    Ready (.writeChars ⟨0#8, 0#8, [0x31#8, 0x2D#8]⟩) (placed [] (transactionAnswers 3))
      ∧ [0, 0].length = [0x31#8, 0x2D#8].length ∧ [0#8, 0#8].length = [0x31#8, 0x2D#8].length
      ∧ (∀ (j : Nat) (c p : Byte), [0x31#8, 0x2D#8][j]? = some c → [0#8, 0#8][j]? = some p →
          exec (.character c) (placed [] (transactionAnswers 3))
            = .next { placed [] (transactionAnswers 3) with reply := .pattern p })
      ∧ TransactionAcked [0, 0, 0] (transactionAnswers 3)
      ∧ (placed [] (transactionAnswers 3)).answers = transactionAnswers 3 ++ [] := by
  refine ⟨ready_placed _ _ rfl, rfl, rfl, ?_, transactionAcked_lows 3, by rw [List.append_nil]; rfl⟩
  intro j c p hc hp
  match j with
  | 0 => cases hc; cases hp; rfl
  | 1 => cases hc; cases hp; rfl
  | j + 2 => simp at hc

theorem witness_SetBrightnessCompletes :
    Ready (.setBrightness ⟨0#8, 0xFF#8, []⟩) (placed [] (transactionAnswers 1))
      ∧ TransactionAcked [0] (transactionAnswers 1)
      ∧ (placed [] (transactionAnswers 1)).answers = transactionAnswers 1 ++ [] :=
  ⟨ready_placed _ _ rfl, transactionAcked_lows 1, by rw [List.append_nil]; rfl⟩

theorem witness_BusyRequestsRefused :
    requestOf (.clear ⟨0#8, 0#8, []⟩) = some ⟨0#8, 0#8, []⟩
      ∧ { State.reset with phase := .stop }.phase ≠ .idle := by decide

/-- Also the hypotheses of OperationIsBeginningOfTransaction. -/
theorem witness_NoOperandIsAnError :
    wireBytes State.reset.cfg (.writeHex ⟨0xFF#8, 0#8, [0x1F#8]⟩)
        = some (0xCF#8, [0x71#8])
      ∧ Ready (.writeHex ⟨0xFF#8, 0#8, [0x1F#8]⟩) (placed [] (transactionAnswers 2))
      ∧ [0, 0].length = [0x71#8].length + 1 ∧ TransactionAcked [0, 0] (transactionAnswers 2)
      ∧ (placed [] (transactionAnswers 2)).answers = transactionAnswers 2 ++ [] :=
  ⟨by decide, ready_placed _ _ rfl, rfl, transactionAcked_lows 2, by rw [List.append_nil]; rfl⟩

/-- One operation for each of the three results. -/
theorem witness_OperationIsBeginningOfTransaction :
    wireBytes State.reset.cfg (.init ⟨0#8, 0#8, []⟩) = some (0x40#8, [])
      ∧ Ready (.init ⟨0#8, 0#8, []⟩) (placed [] (lows 36))
      ∧ (ran (.init ⟨0#8, 0#8, []⟩) (placed [] (lows 36))).result = .ok
      ∧ (ran (.init ⟨0#8, 0#8, []⟩) (placed [] (lows 31 ++ highs 255))).result = .ackTimeout
      ∧ (ran (.init ⟨0#8, 0#8, []⟩) (placed [] [Answer.failed 3])).result = .lineFault 3 :=
  ⟨by decide, ready_placed _ _ rfl, by decide +kernel, by decide +kernel, by decide⟩

/-- The command byte unacknowledged (no byte before it), and the second data byte. -/
theorem witness_UnacknowledgedByteAborts :
    (Ready (.clear ⟨0#8, 0#8, []⟩) (placed [] (lows 4 ++ [] ++ (lows 27 ++ highs 255) ++ []))
        ∧ [0xC0#8, 0#8, 0#8, 0#8, 0#8][([] : List Nat).length]? = some 0xC0#8 ∧ BytesAcked [] [])
      ∧ wireBytes State.reset.cfg (.writeRaw ⟨0#8, 0#8, [1#8, 2#8]⟩)
          = some (0xC0#8, [1#8, 2#8])
      ∧ requestOf (.writeRaw ⟨0#8, 0#8, [1#8, 2#8]⟩) = some ⟨0#8, 0#8, [1#8, 2#8]⟩
      ∧ Ready (.writeRaw ⟨0#8, 0#8, [1#8, 2#8]⟩) (placed [] (lows 4 ++ lows 56 ++ (lows 27 ++ highs 255) ++ []))
      ∧ [0xC0#8, 1#8, 2#8][[0, 0].length]? = some 2#8 ∧ Drives 4 (lows 4) ∧ BytesAcked [0, 0] (lows 56)
      ∧ ByteUnacked (lows 27 ++ highs 255)
      ∧ (placed [] (lows 4 ++ lows 56 ++ (lows 27 ++ highs 255) ++ [])).answers
          = lows 4 ++ lows 56 ++ (lows 27 ++ highs 255) ++ [] :=
  ⟨⟨ready_placed _ _ rfl, rfl, rfl⟩, by decide, rfl, ready_placed _ _ rfl, by decide, drives_lows 4,
   bytesAcked_lows 2, byteUnacked_highs, rfl⟩

/-- Both clauses: accepted, and turned away while busy. -/
theorem witness_RequestFrame :
    requestOf (.init ⟨1#8, 2#8, []⟩) = some ⟨1#8, 2#8, []⟩
      ∧ exec (.init ⟨1#8, 2#8, []⟩) (placed [] (lows 36)) = .next (ran (.init ⟨1#8, 2#8, []⟩) (placed [] (lows 36)))
      ∧ (ran (.init ⟨1#8, 2#8, []⟩) (placed [] (lows 36))).reply ≠ .notAccepted
      ∧ takesPayload (.init ⟨1#8, 2#8, []⟩) = false
      ∧ exec (.init ⟨1#8, 2#8, []⟩) { State.reset with phase := .stop }
          = .next (ran (.init ⟨1#8, 2#8, []⟩) { State.reset with phase := .stop })
      ∧ (ran (.init ⟨1#8, 2#8, []⟩) { State.reset with phase := .stop }).reply = .notAccepted :=
  ⟨rfl, rfl, by decide +kernel, rfl, rfl, rfl⟩

/-- All three clauses on `BYTE_CNT`: success, the command byte cut, a data byte cut. -/
theorem witness_PayloadConsumption :
    takesPayload (.writeRaw ⟨0#8, 0#8, [1#8, 2#8]⟩) = true
      ∧ requestOf (.writeRaw ⟨0#8, 0#8, [1#8, 2#8]⟩) = some ⟨0#8, 0#8, [1#8, 2#8]⟩
      ∧ Ready (.writeRaw ⟨0#8, 0#8, [1#8, 2#8]⟩) (placed [] (lows 92))
      ∧ (ran (.writeRaw ⟨0#8, 0#8, [1#8, 2#8]⟩) (placed [] (lows 92))).result = .ok
      ∧ (ran (.writeRaw ⟨0#8, 0#8, [1#8, 2#8]⟩) (placed [] (lows 9 ++ [Answer.failed 0]))).byteCnt = 0
      ∧ (ran (.writeRaw ⟨0#8, 0#8, [1#8, 2#8]⟩) (placed [] (lows 40 ++ [Answer.failed 0]))).byteCnt = 1 :=
  ⟨rfl, rfl, ready_placed _ _ rfl, by decide +kernel, by decide +kernel, by decide +kernel⟩

theorem witness_TranslatedWritesAreWriteRaw : State.reset.cfg.hasChar = true := by decide

/-- Two states that differ in every register an earlier operation leaves: with equal counters of accesses,
and with the counters of program P3, where the list supplies every answer. -/
theorem witness_OperationsAreIndependent :
    (wireBytes State.reset.cfg (.init ⟨0#8, 0#8, []⟩)).isSome = true
      ∧ Ready (.init ⟨0#8, 0#8, []⟩) (placed [] (lows 36))
      ∧ Ready (.init ⟨0#8, 0#8, []⟩)
          { placed [] (lows 36) with clkO := true, dioO := true, result := .ackTimeout, byteCnt := 4,
                                     shreg := 7#8, events := [C0], accesses := 36 }
      ∧ exec (.init ⟨0#8, 0#8, []⟩) (placed [] (lows 36))
          = .next (ran (.init ⟨0#8, 0#8, []⟩) (placed [] (lows 36)))
      ∧ (ran (.init ⟨0#8, 0#8, []⟩) (placed [] (lows 36))).accesses
          ≤ (placed [] (lows 36)).accesses + (placed [] (lows 36)).answers.length
      ∧ (State.reset.todo = [] ∧ State.reset.calls = [] ∧ State.reset.requests = []) :=
  ⟨by decide, ready_placed _ _ rfl, ⟨rfl, rfl, rfl⟩, rfl, by decide +kernel, rfl, rfl, rfl⟩

/-- Both kinds. -/
theorem witness_TwoErrorsOnly :
    (ran .start (placed [] [Answer.failed 8])).reply = .raised (.lineFault 8)
      ∧ exec .start (placed [] [Answer.failed 8]) = .next (ran .start (placed [] [Answer.failed 8]))
      ∧ (ran (.sendByte 0#8) (placed [] (lows 27 ++ highs 255))).reply = .raised .ackTimeout :=
  ⟨by decide, rfl, by decide +kernel⟩

/-- Every clause; the second and the fourth at their boundary, the 255th read failed (case B9) or low. -/
theorem witness_FirstErrorIsReported :
    (exec .start (placed [] [Answer.failed 8]) = .next (ran .start (placed [] [Answer.failed 8]))
        ∧ (ran .start (placed [] [Answer.failed 8])).events
            = (placed [] [Answer.failed 8]).events ++ [] ++ Event.failed (.clk false) :: [])
      ∧ (Drives 27 (lows 27) ∧ 254 < 255
        ∧ (placed [] (lows 27 ++ highs 254 ++ Answer.failed 1 :: [])).answers
            = lows 27 ++ List.replicate 254 (Answer.done true) ++ Answer.failed 1 :: [])
      ∧ ((placed [] (lows 27 ++ highs 255 ++ [])).answers
            = lows 27 ++ List.replicate 255 (Answer.done true) ++ [])
      ∧ ((placed [] (lows 27 ++ highs 254 ++ Answer.done false :: [])).answers
            = lows 27 ++ List.replicate 254 (Answer.done true) ++ Answer.done false :: [])
      ∧ (exec (.sendByte 0#8) (placed [] (lows 27 ++ highs 255))
            = .next (ran (.sendByte 0#8) (placed [] (lows 27 ++ highs 255)))
        ∧ (ran (.sendByte 0#8) (placed [] (lows 27 ++ highs 255))).reply = .raised .ackTimeout) :=
  ⟨⟨rfl, by decide⟩, ⟨drives_lows 27, by decide, placed_answers _ _⟩, placed_answers _ _, placed_answers _ _,
   rfl, by decide +kernel⟩

theorem witness_LineFaultCarriesPinValue :
    exec (.clear ⟨0#8, 0#8, []⟩) (placed [] (lows 2 ++ [Answer.failed 6]))
        = .next (ran (.clear ⟨0#8, 0#8, []⟩) (placed [] (lows 2 ++ [Answer.failed 6])))
      ∧ (ran (.clear ⟨0#8, 0#8, []⟩) (placed [] (lows 2 ++ [Answer.failed 6]))).reply = .raised (.lineFault 6)
      ∧ (ran (.clear ⟨0#8, 0#8, []⟩) (placed [] (lows 2 ++ [Answer.failed 6]))).accesses
          ≤ (placed [] (lows 2 ++ [Answer.failed 6])).accesses + (placed [] (lows 2 ++ [Answer.failed 6])).answers.length :=
  ⟨rfl, by decide +kernel, by decide +kernel⟩

theorem witness_NoStopAfterError :
    (wireBytes State.reset.cfg (.init ⟨0#8, 0#8, []⟩)).isSome = true
      ∧ Ready (.init ⟨0#8, 0#8, []⟩) (placed [] [Answer.failed 3])
      ∧ exec (.init ⟨0#8, 0#8, []⟩) (placed [] [Answer.failed 3])
          = .next (ran (.init ⟨0#8, 0#8, []⟩) (placed [] [Answer.failed 3]))
      ∧ (ran (.init ⟨0#8, 0#8, []⟩) (placed [] [Answer.failed 3])).events
          = (placed [] [Answer.failed 3]).events ++ [.failed (.clk false)]
      ∧ (ran (.init ⟨0#8, 0#8, []⟩) (placed [] [Answer.failed 3])).result ≠ .ok :=
  ⟨by decide, ready_placed _ _ rfl, rfl, by decide, by decide⟩

/-- All four clauses: rows X1, X7, X8 and X9 of section 3.9. -/
theorem witness_LineLevelsAfterAbort :
    Ready (.setBrightness ⟨0#8, 7#8, []⟩) (placed [] (lows 31 ++ [Answer.failed 0]))
      ∧ (ran (.setBrightness ⟨0#8, 7#8, []⟩) (placed [] (lows 31 ++ highs 255))).result = .ackTimeout
      ∧ (ran (.setBrightness ⟨0#8, 7#8, []⟩) (placed [] (lows 31 ++ [Answer.failed 0]))).events.getLast?
          = some (.failed .read)
      ∧ (ran (.setBrightness ⟨0#8, 7#8, []⟩) (placed [] (lows 32 ++ [Answer.failed 0]))).events.getLast?
          = some (.failed (.clk false))
      ∧ (ran (.setBrightness ⟨0#8, 7#8, []⟩) (placed [] (lows 35 ++ [Answer.failed 0]))).events.getLast?
          = some (.failed (.dio true)) := by
  refine ⟨ready_placed _ _ rfl, ?_⟩
  decide +kernel

/-- A step of every kind of end for DeviceReadsTheBytes: success, and a byte cut short. -/
theorem witness_DeviceReadsTheBytes :
    wireBytes State.reset.cfg (.init ⟨0#8, 0#8, []⟩) = some (0x40#8, [])
      ∧ Ready (.init ⟨0#8, 0#8, []⟩) (placed [] (lows 9 ++ [Answer.failed 0]))
      ∧ exec (.init ⟨0#8, 0#8, []⟩) (placed [] (lows 9 ++ [Answer.failed 0]))
          = .next (ran (.init ⟨0#8, 0#8, []⟩) (placed [] (lows 9 ++ [Answer.failed 0])))
      ∧ (ran (.init ⟨0#8, 0#8, []⟩) (placed [] (lows 9 ++ [Answer.failed 0]))).result = .lineFault 0
      ∧ (ran (.init ⟨0#8, 0#8, []⟩) (placed [] (lows 36))).result = .ok :=
  ⟨by decide, ready_placed _ _ rfl, rfl, by decide +kernel, by decide +kernel⟩

/-- Also the hypotheses of DeviceReadsTheOperation. -/
theorem witness_OneStartOneStopEdge :
    wireBytes State.reset.cfg (.init ⟨0#8, 0#8, []⟩) = some (0x40#8, [])
      ∧ Ready (.init ⟨0#8, 0#8, []⟩) (placed [] (lows 36))
      ∧ exec (.init ⟨0#8, 0#8, []⟩) (placed [] (lows 36))
          = .next (ran (.init ⟨0#8, 0#8, []⟩) (placed [] (lows 36)))
      ∧ (ran (.init ⟨0#8, 0#8, []⟩) (placed [] (lows 36))).result = .ok
      ∧ (ran (.init ⟨0#8, 0#8, []⟩) (placed [] (lows 36))).events
          = (placed [] (lows 36)).events ++ traceTransaction 1 [(0x40#8, 0)] :=
  ⟨by decide, ready_placed _ _ rfl, rfl, by decide +kernel, by decide +kernel⟩

theorem witness_ExecIsTicksToTheEnd :
    decodeRequest ((7#3).setWidth 8) ⟨0#8, 0#8, []⟩ = .instr (.reservedOp7 ⟨0#8, 0#8, []⟩)
      ∧ State.reset.phase = .idle ∧ State.reset.todo = [] := by decide

/-- A state in the last step of an operation, on whose lines nothing has happened yet. -/
theorem inv_finishing : Inv { State.reset with phase := .stop, todo := [.finish] } :=
  ⟨⟨by decide, [.clk false, .dio false, .clk true, .wait, .dio true, .wait], rfl⟩, ⟨rfl, rfl⟩,
   fun _ h => by cases h⟩

/-- A state between two operations. -/
theorem inv_between : Inv { State.reset with byteCnt := 5, resultKnown := true } :=
  ⟨rfl, ⟨rfl, rfl⟩, fun _ h => by cases h⟩

/-- Also the hypothesis of PhaseMoves. -/
theorem witness_ResultWrittenAtReturnToIdle :
    Inv { State.reset with phase := .stop, todo := [.finish] }
      ∧ (advance { State.reset with phase := .stop, todo := [.finish] }).resultKnown
          ≠ { State.reset with phase := .stop, todo := [.finish] }.resultKnown := ⟨inv_finishing, by decide⟩

/-- Each clause with hypotheses: busy, not busy, and an operation's end. -/
theorem witness_StatusView :
    Inv { State.reset with phase := .stop, todo := [.finish] }
      ∧ (statusView { State.reset with phase := .stop, todo := [.finish] }).1 = true
      ∧ Inv { State.reset with byteCnt := 5, resultKnown := true }
      ∧ (statusView { State.reset with byteCnt := 5, resultKnown := true }).1 = false
      ∧ (wireBytes State.reset.cfg (.init ⟨0#8, 0#8, []⟩)).isSome = true
      ∧ Ready (.init ⟨0#8, 0#8, []⟩) (placed [] [.failed 3])
      ∧ exec (.init ⟨0#8, 0#8, []⟩) (placed [] [.failed 3])
          = .next (ran (.init ⟨0#8, 0#8, []⟩) (placed [] [.failed 3]))
      ∧ statusView (ran (.init ⟨0#8, 0#8, []⟩) (placed [] [.failed 3])) = (false, some (.lineFault 3)) :=
  ⟨inv_finishing, rfl, inv_between, rfl, by decide, ready_placed _ _ rfl, rfl, by decide⟩

theorem witness_TickMakesOneEvent : State.reset.calls = [] ∧ step State.reset = .next State.reset := ⟨rfl, rfl⟩

theorem witness_StepKeepsInvariant :
    Inv { State.reset with phase := .stop, todo := [.finish] }
      ∧ step { State.reset with phase := .stop, todo := [.finish] }
          = .next (State.complete { State.reset with phase := .stop }) := ⟨inv_finishing, rfl⟩

/-- Also the hypothesis of AccessesAreCounted. -/
theorem witness_StepNeverWritesRoms : step State.reset = .next State.reset := rfl

end Sys2Proof.Tests
end

section
/-! The drives of DIO in an event list, and in a byte (20_memory.md R32). -/

namespace Sys2Proof.Machine

open Sys2Proof.Safety

/-! The level sequence of each stretch of events. -/

@[simp] theorem dioLevels_append (a b : List Event) : dioLevels (a ++ b) = dioLevels a ++ dioLevels b := by
  induction a with
  | nil => rfl
  | cons e es ih => cases e <;> simp [dioLevels, ih]

/-- What comes before a point of an event list drives DIO with a beginning of the list's levels. -/
theorem dioLevels_prefix_append (a b : List Event) : dioLevels a <+: dioLevels (a ++ b) := by
  rw [dioLevels_append]
  exact List.prefix_append _ _

@[simp] theorem dioLevels_traceBit (us : Nat) (b : Level) : dioLevels (traceBit us b) = [b] := rfl

@[simp] theorem dioLevels_traceData (us : Nat) (v : Byte) (n : Nat) :
    dioLevels (traceData us v n) = (List.range n).map v.getLsbD := by
  induction n with
  | zero => rfl
  | succ n ih =>
    have last : traceData us v (n + 1) = traceData us v n ++ traceBit us (v.getLsbD n) := by
      simp [traceData, List.range_succ]
    simp [last, ih, List.range_succ]

/-- The acknowledgement wait drives nothing (R86). -/
@[simp] theorem dioLevels_traceHighs (us k : Nat) : dioLevels (traceHighs us k) = [] := by
  induction k with
  | zero => rfl
  | succ k ih => rw [traceHighs_succ, dioLevels_append, ih]; rfl

/-- The levels a byte puts on DIO: its bits, bit 0 first, and the release of the acknowledgement clock
(R32, R85). -/
def lsbFirst (v : Byte) : List Level := (List.range 8).map v.getLsbD ++ [true]

theorem lsbFirst_eq (v : Byte) :
    lsbFirst v = [v.getLsbD 0, v.getLsbD 1, v.getLsbD 2, v.getLsbD 3,
      v.getLsbD 4, v.getLsbD 5, v.getLsbD 6, v.getLsbD 7, true] := rfl

@[simp] theorem dioLevels_traceShift (us : Nat) (v : Byte) : dioLevels (traceShift us v) = lsbFirst v := by
  have split : traceShift us v = traceData us v 8 ++ traceBit us true := rfl
  rw [split, dioLevels_append, dioLevels_traceData, dioLevels_traceBit, lsbFirst]

@[simp] theorem dioLevels_traceByte (us : Nat) (v : Byte) (k : Nat) :
    dioLevels (traceByte us v k) = lsbFirst v := by
  simp [traceByte, dioLevels]

/-! How a byte ends. -/

/-- A stretch cut by a line fault has driven DIO with a beginning of the whole stretch's levels (R89). -/
theorem CutAt.dioLevels_prefix {s t : State} {full : List Event} {info : Info} (k : CutAt s t full info) :
    ∃ seg, History s t seg ∧ dioLevels seg <+: dioLevels full := by
  obtain ⟨⟨pre, e, post, a, hfull, -, -, hist, -⟩, -⟩ := k
  refine ⟨_, hist, ?_⟩
  have failedDrivesNothing : dioLevels (pre ++ [Event.failed a]) = dioLevels pre := by
    simp [dioLevels]
  rw [failedDrivesNothing, hfull]
  exact dioLevels_prefix_append _ _

/-- A raise is what the caller is told, inside an operation and outside (R9, R124(f)). -/
@[simp] theorem raise_reply (s : State) (e : Err) : (s.raise e).reply = .raised e := by
  by_cases h : s.phase = .idle
  · rw [raise_idle s e h, setReply_reply]
  · rw [raise_busy s e h, abort_reply]

/-- However `SEND_BYTE(v)` ends, it has driven DIO with a beginning of `lsbFirst v`, and with all of it
when it ends in `OK` (R32). -/
theorem sendByte_dioLevels (v : Byte) (s : State) :
    ∃ seg, History s (settle (sendByte v s)) seg ∧ dioLevels seg <+: lsbFirst v
      ∧ ((settle (sendByte v s)).reply = .ok → dioLevels seg = lsbFirst v) := by
  rcases sendByte_cases v s with ⟨k, t, -, ht, hist, -⟩ | ⟨k, info, t, -, ht, cut⟩ | ⟨t, ht, hist, -⟩
  · rw [ht, settle_done]
    exact ⟨_, hist.trans (setReply_history t _), by simp, fun _ => by simp⟩
  · obtain ⟨seg, hist, pre⟩ := cut.dioLevels_prefix
    rw [dioLevels_traceByte] at pre
    rw [ht, settle_raised]
    exact ⟨_, hist.trans (raise_history t _), by simpa using pre, by simp⟩
  · rw [ht, settle_raised]
    exact ⟨_, hist.trans (raise_history t _), by simp, by simp⟩

end Sys2Proof.Machine

open Sys2Proof Sys2Proof.Machine Sys2Proof.Safety

/-- Settles O21: whichever way the byte ends, its drives of DIO are those of `sendByte_dioLevels`. -/
theorem leastSignificantBitFirst : Obligations.LeastSignificantBitFirst := by
  unfold Obligations.LeastSignificantBitFirst
  intro v s
  obtain ⟨seg, hist, pre, whole⟩ := sendByte_dioLevels v s
  rw [lsbFirst_eq] at pre whole
  exact ⟨_, seg, rfl, hist.events, pre, whole⟩

end

section
/-! The encoder: what its two look-ups read, and what its two instructions do (40_encoder.md R70, R74, R76). -/

namespace Sys2Proof.Machine

/-! What a look-up reads of the configuration. -/

theorem hexPattern_congr {c d : Config} (h : c.hexRom = d.hexRom) (n : Byte) :
    hexPattern c n = hexPattern d n := by
  simp only [hexPattern, cfg_nibbleMask, h]

theorem letterEntry_congr {c d : Config} (h : c.letterRom = d.letterRom) (k : Nat) :
    letterEntry c k = letterEntry d k := by
  simp only [letterEntry, cfg_blank, h]

theorem charPattern_congr {c d : Config} (h : c.letterRom = d.letterRom) (v : Byte) :
    charPattern c v = charPattern d v := by
  simp only [charPattern, cfg_blank, letterEntry_congr h]

/-! What an encoder instruction does to a state. -/

theorem exec_hexDigit (n : Byte) (s : State) :
    exec (.hexDigit n) s = .next { s with reply := .pattern (hexPattern s.cfg n) } := rfl

theorem exec_character {s : State} (h : s.cfg.hasChar = true) (c : Byte) :
    exec (.character c) s = .next { s with reply := .pattern (charPattern s.cfg c) } :=
  if_pos h

end Sys2Proof.Machine

open Sys2Proof.Machine

/-- Settles O12: both states answer the first one's pattern, since each look-up reads one ROM and fixed
parameters. -/
theorem encoderIsCombinational : Obligations.EncoderIsCombinational := by
  unfold Obligations.EncoderIsCombinational
  intro s s' sameHex sameLetters
  constructor
  · intro n
    refine ⟨hexPattern s.cfg n, exec_hexDigit n s, ?_⟩
    rw [hexPattern_congr sameHex, exec_hexDigit]
  · intro has has' c
    refine ⟨charPattern s.cfg c, exec_character has c, ?_⟩
    rw [charPattern_congr sameLetters, exec_character has']

end

section
/-! Operations depend on nothing earlier (42_commands.md R109): two runs that agree on what an operation reads
stay in agreement, whatever their latches, results and earlier events. -/

namespace Sys2Proof.Machine

open Sys2Proof.Safety

/-- Two states agree on everything an operation in progress reads: `e` and `e'` are what happened before it,
and up to access number `bound` LINES answers both alike (log entry 3). -/
structure Alike (bound : Nat) (e e' : List Event) (s s' : State) : Prop where
  cfg : s.cfg = s'.cfg
  answers : s.answers = s'.answers
  byteCnt : s.byteCnt = s'.byteCnt
  payload : s.payload = s'.payload
  taken : s.taken = s'.taken
  supply : s.accesses = s'.accesses ∨ bound ≤ s.accesses + s.answers.length
  events : ∃ seg, s.events = e ++ seg ∧ s'.events = e' ++ seg

/-- Two flows end the same way, in related states. -/
inductive SameEnd {α : Type} (R : State → State → Prop) : Flow α → Flow α → Prop
  | done (a : α) {t t' : State} (h : R t t') : SameEnd R (.done a t) (.done a t')
  | raised (err : Err) {t t' : State} (h : R t t') : SameEnd R (.raised err t) (.raised err t')

/-- From states that agree, `x` ends the same way in states that agree, as long as LINES answers both alike. -/
structure Replays {α : Type} (x : State → Flow α) : Prop where
  forward : ∀ s, s.accesses ≤ (x s).last.accesses
  alike : ∀ {bound e e' s s'}, Alike bound e e' s s' → (x s).last.accesses ≤ bound →
    SameEnd (Alike bound e e') (x s) (x s')

/-- A register transfer that makes no access and keeps states in agreement. -/
structure Transfers (g : State → State) : Prop where
  accesses : ∀ s, (g s).accesses = s.accesses
  alike : ∀ {bound e e' s s'}, Alike bound e e' s s' → Alike bound e e' (g s) (g s')

/-! One access. -/

section
variable {bound : Nat} {e e' : List Event} {s s' : State}

/-- Within the bound the next access is answered alike: from the list, or by the free value of one number. -/
theorem Alike.nextAnswer (h : Alike bound e e' s s') (within : s.accesses < bound) :
    s.nextAnswer = s'.nextAnswer := by
  have same := h.answers
  cases hs : s.answers with
  | cons a as => rw [nextAnswer_cons s a as hs, nextAnswer_cons s' a as (same ▸ hs)]
  | nil =>
    have equal : s.accesses = s'.accesses :=
      h.supply.resolve_right (by rw [hs, List.length_nil]; omega)
    rw [nextAnswer_nil s hs, nextAnswer_nil s' (same ▸ hs), equal]

theorem Alike.tookAnswer (h : Alike bound e e' s s') : Alike bound e e' s.tookAnswer s'.tookAnswer where
  cfg := h.cfg
  answers := congrArg List.tail h.answers
  byteCnt := h.byteCnt
  payload := h.payload
  taken := h.taken
  supply := by
    rcases h.supply with equal | listed
    · exact .inl (congrArg (· + 1) equal)
    · exact .inr (by simp only [tookAnswer_accesses, tookAnswer_answers, List.length_tail]; omega)
  events := h.events

theorem Alike.record (h : Alike bound e e' s s') (ev : Event) :
    Alike bound e e' (s.record ev) (s'.record ev) :=
  { h with
    events := by
      obtain ⟨seg, hs, hs'⟩ := h.events
      exact ⟨seg ++ [ev], by simp [hs], by simp [hs']⟩ }

/-- The latches are not compared: after a failed drive they hold free values (R89). -/
theorem Alike.setClk (h : Alike bound e e' s s') (l l' : Level) (known : Bool) :
    Alike bound e e' (s.setClk l known) (s'.setClk l' known) := { h with }

theorem Alike.setDio (h : Alike bound e e' s s') (l l' : Level) (known : Bool) :
    Alike bound e e' (s.setDio l known) (s'.setDio l' known) := { h with }

end

theorem clkSet_accesses (b : Level) (s : State) : (clkSet b s).last.accesses = s.accesses + 1 := by
  unfold clkSet
  cases s.nextAnswer <;> rfl

theorem dioSet_accesses (b : Level) (s : State) : (dioSet b s).last.accesses = s.accesses + 1 := by
  unfold dioSet
  cases s.nextAnswer <;> rfl

theorem dioRead_accesses (s : State) : (dioRead s).last.accesses = s.accesses + 1 := by
  unfold dioRead
  cases s.nextAnswer <;> rfl

theorem clkSet_replays (b : Level) : Replays (clkSet b) where
  forward s := by rw [clkSet_accesses]; omega
  alike {bound e e' s s'} h within := by
    rw [clkSet_accesses] at within
    unfold clkSet
    rw [← h.nextAnswer within]
    cases s.nextAnswer with
    | done l => exact .done () ((h.tookAnswer.setClk b b true).record _)
    | failed info => exact .raised _ ((h.tookAnswer.setClk _ _ false).record _)

theorem dioSet_replays (b : Level) : Replays (dioSet b) where
  forward s := by rw [dioSet_accesses]; omega
  alike {bound e e' s s'} h within := by
    rw [dioSet_accesses] at within
    unfold dioSet
    rw [← h.nextAnswer within]
    cases s.nextAnswer with
    | done l => exact .done () ((h.tookAnswer.setDio b b true).record _)
    | failed info => exact .raised _ ((h.tookAnswer.setDio _ _ false).record _)

theorem dioRead_replays : Replays dioRead where
  forward s := by rw [dioRead_accesses]; omega
  alike {bound e e' s s'} h within := by
    rw [dioRead_accesses] at within
    unfold dioRead
    rw [← h.nextAnswer within]
    cases s.nextAnswer with
    | done l => exact .done l (h.tookAnswer.record _)
    | failed info => exact .raised _ (h.tookAnswer.record _)

/-! How replaying composes. -/

theorem Replays.done : Replays (Flow.done ()) where
  forward _ := Nat.le_refl _
  alike h _ := .done () h

theorem Replays.raised (err : Err) : Replays (Flow.raised err : State → Flow Unit) where
  forward _ := Nat.le_refl _
  alike h _ := .raised err h

/-- The first part's accesses are among those of the whole, so the bound on the whole serves for both parts. -/
theorem Replays.bind {α β : Type} {x : State → Flow α} {f : α → State → Flow β} (hx : Replays x)
    (hf : ∀ a, Replays (f a)) : Replays fun s => (x s).bind f where
  forward s := by
    have first := hx.forward s
    cases h : x s with
    | done a t =>
      rw [h] at first
      exact first.trans ((hf a).forward t)
    | raised err t =>
      rw [h] at first
      exact first
  alike {bound e e' s s'} h within := by
    have first : (x s).last.accesses ≤ bound := by
      refine Nat.le_trans ?_ within
      cases hs : x s with
      | done a t => exact (hf a).forward t
      | raised err t => exact Nat.le_refl _
    have ends := hx.alike h first
    generalize x s = y, x s' = y' at ends within
    cases ends with
    | done a agree => exact (hf a).alike agree within
    | raised err agree => exact .raised err agree

theorem Replays.after {α : Type} {x : State → Flow α} {g : State → State} (hx : Replays x)
    (hg : Transfers g) : Replays fun s => x (g s) where
  forward s := by
    rw [← hg.accesses s]
    exact hx.forward (g s)
  alike h within := hx.alike (hg.alike h) within

/-- What `x` is run with may be read from the state, where the two states agree on it. -/
theorem Replays.reading {α β : Type} {x : β → State → Flow α} (p : State → β)
    (agree : ∀ {bound e e' s s'}, Alike bound e e' s s' → p s = p s') (hx : ∀ v, Replays (x v)) :
    Replays fun s => x (p s) s where
  forward s := (hx (p s)).forward s
  alike h within := by
    rw [← agree h]
    exact (hx _).alike h within

/-! The register transfers of an operation. -/

theorem transfers_delay : Transfers delay where
  accesses _ := rfl
  alike {bound e e' s s'} h := by
    unfold delay
    rw [← h.cfg]
    exact h.record _

theorem transfers_setPhase (p : Phase) : Transfers fun s => s.setPhase p := ⟨fun _ => rfl, fun h => { h with }⟩

theorem transfers_setPollCnt (n : State → BitVec 8) : Transfers fun s => s.setPollCnt (n s) :=
  ⟨fun _ => rfl, fun h => { h with }⟩

theorem transfers_loadByte (v : Byte) : Transfers fun s => s.loadByte v := ⟨fun _ => rfl, fun h => { h with }⟩

theorem transfers_shiftByte : Transfers State.shiftByte := ⟨fun _ => rfl, fun h => { h with }⟩

theorem transfers_setByteCnt (n : Nat) : Transfers fun s => s.setByteCnt n :=
  ⟨fun _ => rfl, fun h => { h with byteCnt := rfl }⟩

theorem transfers_countByte : Transfers fun s => s.setByteCnt (s.byteCnt + 1) :=
  ⟨fun _ => rfl, fun h => { h with byteCnt := congrArg (· + 1) h.byteCnt }⟩

theorem transfers_takeElem (es : List Byte) : Transfers fun s => s.takeElem es :=
  ⟨fun _ => rfl, fun h => { h with payload := rfl, taken := congrArg (· + 1) h.taken }⟩

/-! The primitives of XPORT. -/

theorem sendBit_replays (b : Level) : Replays (sendBit b) :=
  (clkSet_replays false).bind fun _ => (dioSet_replays b).bind fun _ => (clkSet_replays true).bind fun _ =>
    Replays.done.after transfers_delay

theorem startCondition_replays : Replays startCondition :=
  (clkSet_replays false).bind fun _ => (dioSet_replays true).bind fun _ => (clkSet_replays true).bind fun _ =>
    (dioSet_replays false).after transfers_delay

theorem stopCondition_replays : Replays stopCondition :=
  (clkSet_replays false).bind fun _ => (dioSet_replays false).bind fun _ => (clkSet_replays true).bind fun _ =>
    ((dioSet_replays true).bind fun _ => Replays.done.after transfers_delay).after transfers_delay

/-- The data phase with its bits taken from the value `v` in place of `SHREG`. -/
def shiftValue : Byte → Nat → State → Flow Unit
  | _, 0, s => .done () s
  | v, n + 1, s => (sendBit (v.getLsbD 0) s).bind fun _ s => shiftValue (v >>> 1) n s.shiftByte

/-- `SHREG` is what was loaded into it: no drive writes it. -/
theorem shiftOut_eq_shiftValue (n : Nat) (s : State) : shiftOut n s = shiftValue s.shreg n s := by
  induction n generalizing s with
  | zero => rfl
  | succ n ih =>
    unfold shiftOut shiftValue
    cases hb : sendBit (s.shreg.getLsbD 0) s with
    | done a t =>
      have kept : t.shreg = s.shreg := ((sendBit_still _ s).1 t hb).shreg
      rw [bind_done, bind_done, ih, shiftByte_shreg, kept]
    | raised err t => rfl

theorem shiftValue_replays (n : Nat) : ∀ v, Replays (shiftValue v n) := by
  induction n with
  | zero => exact fun _ => Replays.done
  | succ n ih => exact fun v => (sendBit_replays _).bind fun _ => (ih _).after transfers_shiftByte

theorem pollWait_replays (n : Nat) : Replays (pollWait n) := by
  induction n with
  | zero => exact Replays.raised _
  | succ n ih =>
    refine dioRead_replays.bind fun r => ?_
    cases r with
    | false => exact Replays.done
    | true => exact (ih.after (transfers_setPollCnt fun s => s.pollCnt + 1#8)).after transfers_delay

theorem sendByte_replays (v : Byte) : Replays (sendByte v) := by
  have bits : Replays fun s => shiftOut 8 (s.loadByte v) := by
    simp only [shiftOut_eq_shiftValue, loadByte_shreg]
    exact (shiftValue_replays 8 v).after (transfers_loadByte v)
  refine bits.bind fun _ => (sendBit_replays true).bind fun _ => ?_
  simp only [cfg_ackPolls]
  exact (pollWait_replays 255).after (transfers_setPollCnt _)

/-! The parts of a transaction. -/

theorem sendCommand_replays (c : Byte) : Replays (sendCommand c) :=
  (sendByte_replays c).bind fun _ => Replays.done.after (transfers_setByteCnt 1)

theorem sendData_replays (d : Byte) : Replays (sendData d) :=
  (sendByte_replays d).bind fun _ => Replays.done.after transfers_countByte

theorem sendOwn_replays (ds : List Byte) : Replays (sendOwn ds) := by
  induction ds with
  | nil => exact Replays.done
  | cons d ds ih => exact (sendData_replays d).bind fun _ => ih

/-- Translation reads the ROMs alone. -/
theorem translate_congr {s s' : State} (h : s.cfg = s'.cfg) (t : Translate) (v : Byte) :
    translate t s v = translate t s' v := by
  cases t <;> simp only [translate, h]

theorem sendPayload_replays (t : Translate) (es : List Byte) : Replays (sendPayload t es) := by
  induction es with
  | nil => exact Replays.done
  | cons v es ih =>
    have sent : Replays fun s => sendData (translate t s v) (s.takeElem es) :=
      Replays.reading (x := fun d s => sendData d (s.takeElem es)) (fun s => translate t s v)
        (fun h => translate_congr h.cfg t v) fun d => (sendData_replays d).after (transfers_takeElem es)
    exact sent.bind fun _ => ih

theorem writeBody_replays (t : Translate) : Replays fun s => sendPayload t s.payload s :=
  Replays.reading State.payload (fun h => h.payload) (sendPayload_replays t)

/-! The frame. -/

theorem closeFrame_accesses (x : Flow Unit) : (closeFrame x).accesses = x.last.accesses := by
  cases x <;> rfl

/-- `RESULT` and the reply are written by the end of the frame, from how it ended (R100, R124). -/
theorem closeFrame_alike {bound : Nat} {e e' : List Event} {x x' : Flow Unit}
    (h : SameEnd (Alike bound e e') x x') :
    Alike bound e e' (closeFrame x) (closeFrame x') ∧ (closeFrame x).result = (closeFrame x').result
      ∧ (closeFrame x).reply = (closeFrame x').reply := by
  cases h with
  | done a h => exact ⟨{ h with }, rfl, rfl⟩
  | raised err h => exact ⟨{ h with }, rfl, rfl⟩

/-- A transaction sets `BYTE_CNT` itself, so its first states need not agree on it. -/
theorem transaction_alike {bound : Nat} {e e' : List Event} {s s' : State} {body : State → Flow Unit}
    (cmd : Byte) (hb : Replays body) (h : Alike bound e e' (s.setByteCnt 0) (s'.setByteCnt 0))
    (within : (transaction cmd body s).accesses ≤ bound) :
    Alike bound e e' (transaction cmd body s) (transaction cmd body s')
      ∧ (transaction cmd body s).result = (transaction cmd body s').result
      ∧ (transaction cmd body s).reply = (transaction cmd body s').reply := by
  have frame : Replays fun u => (startCondition u).bind fun _ u =>
      (sendCommand cmd (u.setPhase .transfer)).bind fun _ u =>
      (body u).bind fun _ u => stopCondition (u.setPhase .stop) :=
    startCondition_replays.bind fun _ =>
      Replays.after ((sendCommand_replays cmd).bind fun _ => hb.bind fun _ =>
        stopCondition_replays.after (transfers_setPhase .stop)) (transfers_setPhase .transfer)
  have begun : Alike bound e e' ((s.setPhase .start).setByteCnt 0) ((s'.setPhase .start).setByteCnt 0) :=
    { h with }
  unfold transaction at within ⊢
  rw [closeFrame_accesses] at within
  exact closeFrame_alike (frame.alike begun within)

/-- Each operation is one transaction, opened on the state in which its request was accepted; its command
byte and body are fixed by the operands and the parameters (R101 to R106). -/
theorem exec_eq_transaction (i : Instr) (c : Config) (opens : (wireBytes c i).isSome) :
    ∃ op r cmd body, Replays body ∧
      ∀ s, s.cfg = c → Ready i s → exec i s = .next (transaction cmd body (s.accept op r)) := by
  cases i with
  | init r =>
    refine ⟨0#3, r, c.opcDataAutoinc, _, sendOwn_replays [], ?_⟩
    rintro s rfl ⟨idle, -, -⟩
    exact congrArg Host.Outcome.next (serve_idle _ _ _ s idle)
  | clear r =>
    refine ⟨1#3, r, cmdAddrByte c 0#8, _, sendOwn_replays (List.replicate c.nPos c.blank), ?_⟩
    rintro s rfl ⟨idle, -, -⟩
    exact congrArg Host.Outcome.next (serve_idle _ _ _ s idle)
  | writeRaw r =>
    refine ⟨2#3, r, cmdAddrByte c r.addr, _, writeBody_replays .raw, ?_⟩
    rintro s rfl ⟨idle, -, -⟩
    exact congrArg Host.Outcome.next (serve_idle _ _ _ s idle)
  | writeHex r =>
    refine ⟨3#3, r, cmdAddrByte c r.addr, _, writeBody_replays .hex, ?_⟩
    rintro s rfl ⟨idle, -, -⟩
    exact congrArg Host.Outcome.next (serve_idle _ _ _ s idle)
  | writeChars r =>
    refine ⟨4#3, r, cmdAddrByte c r.addr, _, writeBody_replays .char, ?_⟩
    rintro s rfl ⟨idle, -, hasChar⟩
    exact congrArg Host.Outcome.next ((if_pos hasChar).trans (serve_idle _ _ _ s idle))
  | setBrightness r =>
    refine ⟨5#3, r, cmdBrightByte c r.level, _, sendOwn_replays [], ?_⟩
    rintro s rfl ⟨idle, -, -⟩
    exact congrArg Host.Outcome.next (serve_idle _ _ _ s idle)
  | cmdDataAutoinc | cmdAddr | cmdBrightOn | data | reservedOp6 | reservedOp7 | start | sendBit | sendByte
  | stop | hexDigit | character | bitDelay => cases opens

/-- With nothing in progress, placed or requested, CORE does nothing (R109, R134). -/
theorem step_quiet (s : State) (noTodo : s.todo = []) (noCalls : s.calls = []) (noRequests : s.requests = []) :
    step s = .next s := by
  rcases step_cases s with own | ⟨c, cs, i, -, called, -⟩ | ⟨c, cs, err, -, called, -⟩
  · rw [own, advance_idle s noTodo noRequests]
  · rw [noCalls] at called; cases called
  · rw [noCalls] at called; cases called

end Sys2Proof.Machine

open Sys2Proof Sys2Proof.Machine Sys2Proof.Safety

/-- Settles O42: acceptance loads the operands and `transaction_alike` carries the agreement of the two states,
with the run's own last access as the bound. -/
theorem operationsAreIndependent : Obligations.OperationsAreIndependent := by
  unfold Obligations.OperationsAreIndependent
  refine ⟨?_, step_quiet⟩
  intro i s s' t opens ready ready' sameCfg sameAnswers run supply
  obtain ⟨op, r, cmd, body, replays, eq⟩ := exec_eq_transaction i s.cfg opens
  rw [eq s rfl ready] at run
  cases run
  have accepted : Alike (transaction cmd body (s.accept op r)).accesses s.events s'.events
      ((s.accept op r).setByteCnt 0) ((s'.accept op r).setByteCnt 0) :=
    ⟨sameCfg, sameAnswers, rfl, rfl, rfl, supply, [], by simp, by simp⟩
  obtain ⟨agree, result, reply⟩ := transaction_alike cmd replays accepted (Nat.le_refl _)
  obtain ⟨seg, events, events'⟩ := agree.events
  exact ⟨_, seg, eq s' sameCfg.symm ready', events, events', result, reply, agree.taken, agree.payload,
    agree.byteCnt, agree.answers⟩

end

section
/-! The first error in event order is the one reported (60_exceptions.md R125): how the events of a stretch of a
run stand to the error it ends in, kept from one access up to a whole instruction; and the acknowledgement wait on
given answers. -/

namespace Sys2Proof.Machine

open Sys2Proof.Safety

/-! The error of a stretch and its events. -/

/-- The error a flow raises, if any. -/
def Flow.error? {α : Type} : Flow α → Option Err
  | .done _ _ => none
  | .raised e _ => some e

/-- The error an instruction reports to its caller, if any. -/
def Reply.error? : Reply → Option Err
  | .raised e => some e
  | .nothing => none
  | .ok => none
  | .pattern _ => none
  | .micros _ => none
  | .notAccepted => none

theorem reply_of_error? {r : Reply} {e : Err} (h : r.error? = some e) : r = .raised e := by
  cases r with
  | raised e' => cases h; rfl
  | nothing | ok | pattern | micros | notAccepted => cases h

/-- The events `seg` go with the error reported after them: every access completed, and before the timeout the
last 255 reads were all high; or one access failed, and it is the last event (R125). -/
inductive EndsAtError : Option Err → List Event → Prop
  | noError {seg : List Event} (completed : ∀ e ∈ seg, isCompleted e = true) : EndsAtError none seg
  | timeout {seg : List Event} (completed : ∀ e ∈ seg, isCompleted e = true)
      (highs : List.replicate 255 (Event.dioRead true) <:+ seg.filter isDioRead) :
      EndsAtError (some .ackTimeout) seg
  | fault {before : List Event} (info : Info) (a : Access) (completed : ∀ e ∈ before, isCompleted e = true) :
      EndsAtError (some (.lineFault info)) (before ++ [Event.failed a])

theorem completed_append {a b : List Event} (ha : ∀ e ∈ a, isCompleted e = true)
    (hb : ∀ e ∈ b, isCompleted e = true) : ∀ e ∈ a ++ b, isCompleted e = true := fun e he =>
  (List.mem_append.mp he).elim (ha e) (hb e)

/-- Completed events before a stretch change nothing in how it ends. -/
theorem EndsAtError.prepend {err : Option Err} {a b : List Event} (ha : ∀ e ∈ a, isCompleted e = true)
    (hb : EndsAtError err b) : EndsAtError err (a ++ b) := by
  cases hb with
  | noError completed => exact .noError (completed_append ha completed)
  | timeout completed highs =>
    refine .timeout (completed_append ha completed) ?_
    rw [List.filter_append]
    exact highs.trans (List.suffix_append _ _)
  | fault info failed completed =>
    rw [← List.append_assoc]
    exact .fault info failed (completed_append ha completed)

/-- A failed access among the events is the last of them, and the error is a line fault. -/
theorem EndsAtError.failed_last {err : Option Err} {pre post : List Event} {a : Access}
    (h : EndsAtError err (pre ++ Event.failed a :: post)) :
    post = [] ∧ ∃ info, err = some (.lineFault info) := by
  have failedIsNotCompleted : ∀ {seg : List Event}, (∀ e ∈ seg, isCompleted e = true) → Event.failed a ∉ seg :=
    fun completed mem => Bool.false_ne_true (completed _ mem)
  generalize hseg : pre ++ Event.failed a :: post = seg at h
  have mem : Event.failed a ∈ seg := by simp [← hseg]
  cases h with
  | noError completed => exact absurd mem (failedIsNotCompleted completed)
  | timeout completed _ => exact absurd mem (failedIsNotCompleted completed)
  | @fault before info b completed =>
    refine ⟨?_, info, rfl⟩
    rcases List.eq_nil_or_concat' post with nil | ⟨init, last, rfl⟩
    · exact nil
    · rw [← List.cons_append, ← List.append_assoc] at hseg
      have split : pre ++ Event.failed a :: init = before := (List.append_inj' hseg rfl).1
      exact absurd (by simp [← split]) (failedIsNotCompleted completed)

/-! Flows. -/

/-- After the events `es` a flow adds events that end at the error it raises, if it raises one. -/
def Reports (es : List Event) (x : Flow Unit) : Prop :=
  ∃ seg, x.last.events = es ++ seg ∧ EndsAtError x.error? seg

/-- A register transfer that makes no event. -/
theorem reports_done {es : List Event} {s : State} (same : s.events = es) : Reports es (.done () s) :=
  ⟨[], by simp [same], .noError (by simp)⟩

theorem Reports.bind {es : List Event} {x : Flow Unit} {f : Unit → State → Flow Unit} (hx : Reports es x)
    (hf : ∀ t, Reports t.events (f () t)) : Reports es (x.bind f) := by
  cases x with
  | done a t =>
    obtain ⟨first, events, ends⟩ := hx
    obtain ⟨second, events', ends'⟩ := hf t
    cases ends with
    | noError completed =>
      refine ⟨first ++ second, ?_, ends'.prepend completed⟩
      rw [bind_done, events', ← List.append_assoc, ← events, last_done]
  | raised e t => exact hx

theorem CutAt.reports {s t : State} {full : List Event} {info : Info} (k : CutAt s t full info) :
    Reports s.events (.raised (.lineFault info) t) := by
  obtain ⟨⟨pre, _, _, a, -, -, completed, hist, -⟩, -⟩ := k
  exact ⟨_, hist.events, .fault info a completed⟩

theorem Straight.reports {s : State} {tr : List Event} {x : Flow Unit} (h : Straight s tr x)
    (completed : ∀ e ∈ tr, isCompleted e = true) : Reports s.events x := by
  rcases h with ⟨t, rfl, hist, -⟩ | ⟨info, t, rfl, cut⟩
  · exact ⟨tr, hist.events, .noError completed⟩
  · exact cut.reports

theorem startCondition_reports (s : State) : Reports s.events (startCondition s) :=
  (startCondition_straight s).reports (by simp [traceStart, isCompleted])

theorem stopCondition_reports (s : State) : Reports s.events (stopCondition s) :=
  (stopCondition_straight s).reports (by simp [traceStop, isCompleted])

/-- The reads of a wait that saw only high levels. -/
theorem filter_isDioRead_traceHighs (us k : Nat) :
    (traceHighs us k).filter isDioRead = List.replicate k (Event.dioRead true) := by
  induction k with
  | zero => rfl
  | succ k ih => rw [traceHighs_succ, List.filter_append, ih, List.replicate_succ]; rfl

theorem sendByte_reports (v : Byte) (s : State) : Reports s.events (sendByte v s) := by
  rcases sendByte_cases v s with ⟨k, t, -, ht, hist, -⟩ | ⟨k, info, t, -, ht, cut⟩ | ⟨t, ht, hist, -⟩
  · rw [ht]
    refine ⟨_, hist.events, .noError ?_⟩
    exact completed_append (completed_append (traceShift_completed _ _) (traceHighs_completed _ _))
      (by simp [isCompleted])
  · rw [ht]
    exact cut.reports
  · rw [ht]
    refine ⟨_, hist.events, .timeout (completed_append (traceShift_completed _ _) (traceHighs_completed _ _)) ?_⟩
    rw [List.filter_append, filter_isDioRead_traceHighs]
    exact List.suffix_append _ _

theorem sendCommand_reports (c : Byte) (s : State) : Reports s.events (sendCommand c s) :=
  (sendByte_reports c s).bind fun _ => reports_done rfl

theorem sendData_reports (d : Byte) (s : State) : Reports s.events (sendData d s) :=
  (sendByte_reports d s).bind fun _ => reports_done rfl

theorem sendOwn_reports (ds : List Byte) (s : State) : Reports s.events (sendOwn ds s) := by
  induction ds generalizing s with
  | nil => exact reports_done rfl
  | cons d ds ih => exact (sendData_reports d s).bind ih

theorem sendPayload_reports (t : Translate) (es : List Byte) (s : State) :
    Reports s.events (sendPayload t es s) := by
  induction es generalizing s with
  | nil => exact reports_done rfl
  | cons e es ih => exact (sendData_reports (translate t s e) (s.takeElem es)).bind ih

/-! Instructions. -/

/-- After the events `es`, the state `t` has events that end at the error its reply reports, if it reports one. -/
def Reported (es : List Event) (t : State) : Prop :=
  ∃ seg, t.events = es ++ seg ∧ EndsAtError t.reply.error? seg

theorem reported_setReply (s : State) {r : Reply} (noError : r.error? = none) :
    Reported s.events (s.setReply r) :=
  ⟨[], by simp, by rw [setReply_reply, noError]; exact .noError (by simp)⟩

theorem Reports.settle {es : List Event} {x : Flow Unit} (h : Reports es x) : Reported es (settle x) := by
  obtain ⟨seg, events, ends⟩ := h
  have same : (Machine.settle x).events = x.last.events := by simpa using (settle_history x).events
  refine ⟨seg, same.trans events, ?_⟩
  cases x with
  | done a s => exact ends
  | raised e s => rw [settle_raised, raise_reply]; exact ends

theorem Reports.closeFrame {es : List Event} {x : Flow Unit} (h : Reports es x) :
    Reported es (closeFrame x) := by
  obtain ⟨seg, events, ends⟩ := h
  cases x with
  | done a s => exact ⟨seg, events, ends⟩
  | raised e s => exact ⟨seg, events, ends⟩

theorem transaction_reported (cmd : Byte) {body : State → Flow Unit} (hb : ∀ s, Reports s.events (body s))
    (s : State) : Reported s.events (transaction cmd body s) :=
  Reports.closeFrame <|
    (startCondition_reports ((s.setPhase .start).setByteCnt 0)).bind fun t =>
    (sendCommand_reports cmd (t.setPhase .transfer)).bind fun u =>
    (hb u).bind fun v => stopCondition_reports (v.setPhase .stop)

theorem runWrite_reported (t : Translate) (s : State) : Reported s.events (runWrite t s) :=
  transaction_reported _ (fun u => sendPayload_reports t u.payload u) s

theorem serve_reported (op : BitVec 3) (r : Request) {run : State → State}
    (h : ∀ s, Reported s.events (run s)) (s : State) : Reported s.events (serve op r run s) := by
  by_cases idle : s.phase = .idle
  · rw [serve_idle op r run s idle]
    exact h (s.accept op r)
  · rw [serve_busy op r run s idle]
    exact reported_setReply s rfl

/-- Every instruction that answers reports the first error in event order, and stops there (R125). -/
theorem exec_reported (i : Instr) (s t : State) (h : exec i s = .next t) : Reported s.events t := by
  cases i with
  | cmdDataAutoinc | cmdAddr | cmdBrightOn => cases h; exact (sendCommand_reports _ s).settle
  | data d => cases h; exact (sendData_reports d s).settle
  | init r | setBrightness r | clear r =>
    cases h
    exact serve_reported _ r (fun u => transaction_reported _ (sendOwn_reports _) u) s
  | writeRaw r | writeHex r => cases h; exact serve_reported _ r (runWrite_reported _) s
  | writeChars r =>
    cases h
    by_cases hasChar : s.cfg.hasChar = true
    · rw [if_pos hasChar]
      exact serve_reported _ r (runWrite_reported _) s
    · rw [if_neg hasChar]
      exact reported_setReply s rfl
  | reservedOp6 | reservedOp7 | hexDigit | bitDelay => cases h; exact reported_setReply s rfl
  | start => cases h; exact (startCondition_reports s).settle
  | sendBit b => cases h; exact ((sendBit_straight b s).reports (traceBit_completed _ b)).settle
  | sendByte v => cases h; exact (sendByte_reports v s).settle
  | stop => cases h; exact (stopCondition_reports s).settle
  | character c =>
    by_cases hasChar : s.cfg.hasChar = true
    · rw [exec_character hasChar] at h
      cases h
      exact reported_setReply s rfl
    · simp [exec, execCharacter, hasChar] at h

/-! The acknowledgement wait on given answers. -/

/-- What an attempt can be made of is an access. -/
theorem isAccess_of_attemptOf {e : Event} {a : Access} (h : attemptOf e = some a) : isAccess e = true := by
  cases e with
  | clkSet | dioSet | dioRead => rfl
  | delay | failed => cases h

/-- A primitive with fixed events runs to its end where its answers all complete. -/
theorem Straight.done_of_drives {s : State} {tr : List Event} {x : Flow Unit} {ds rest : List Answer}
    (h : Straight s tr x) (drives : Drives (tr.countP isAccess) ds) (answers : s.answers = ds ++ rest) :
    ∃ t, x = .done () t ∧ t.answers = rest := by
  obtain ⟨length, completing⟩ := drives
  rcases h with ⟨t, hx, hist, -⟩ | ⟨info, t, -, ⟨⟨pre, e, post, a, hfull, attempt, -, -, failing⟩, -⟩⟩
  · exact ⟨t, hx, by rw [hist.answers, answers, ← length, List.drop_left]⟩
  · have access : isAccess e = true := isAccess_of_attemptOf attempt
    have within : pre.countP isAccess < ds.length := by
      rw [length, hfull, List.countP_append, List.countP_cons_of_pos access]
      omega
    rw [answers, List.getElem?_append_left within, List.length_append] at failing
    rcases failing with failing | beyond
    · cases completing _ (List.mem_of_getElem? failing)
    · omega

theorem countP_isAccess_traceShift (us : Nat) (v : Byte) : (traceShift us v).countP isAccess = 27 := rfl

/-- Each high read of the wait uses one iteration of its budget. -/
theorem pollWait_highs (n k : Nat) {s : State} {rest : List Answer}
    (answers : s.answers = List.replicate k (Answer.done true) ++ rest) :
    ∃ t, pollWait (n + k) s = pollWait n t ∧ t.answers = rest := by
  induction k generalizing s with
  | zero => exact ⟨s, rfl, answers⟩
  | succ k ih =>
    rw [List.replicate_succ, List.cons_append] at answers
    have read := dioRead_completes s true _ answers
    obtain ⟨t, same, left⟩ := ih
      (s := (delay (s.tookAnswer.record (.dioRead true))).setPollCnt (s.pollCnt + 1#8)) (by simp [answers])
    exact ⟨t, by rw [← same, ← Nat.add_assoc, pollWait, read, bind_done]; rfl, left⟩

/-- A byte whose 27 drives complete and whose first `k` reads are high stands in its wait, with `n` iterations of
its 255 left (R86, R87). -/
theorem sendByte_waits (v : Byte) (n k : Nat) (budget : n + k = 255) {s : State} {ds rest : List Answer}
    (drives : Drives 27 ds) (answers : s.answers = ds ++ List.replicate k (Answer.done true) ++ rest) :
    ∃ t, sendByte v s = pollWait n t ∧ t.answers = rest := by
  rw [List.append_assoc] at answers
  obtain ⟨t, shifted, left⟩ := (shift_straight v s).done_of_drives
    (by rwa [countP_isAccess_traceShift]) answers
  have e : sendByte v s = pollWait 255 (t.setPollCnt 0#8) := by
    rw [← cfg_ackPolls t.cfg, sendByte, ← bind_assoc, shifted, bind_done]
  rw [e, ← budget]
  exact pollWait_highs n k left

/-- A failed read is a line fault, whatever is left of the budget (R125). -/
theorem pollWait_failed (n : Nat) {s : State} {info : Info} {rest : List Answer}
    (answers : s.answers = Answer.failed info :: rest) :
    ∃ t, pollWait (n + 1) s = .raised (.lineFault info) t := by
  simp [pollWait, dioRead, nextAnswer_cons s _ rest answers]

/-- A low read is success, whatever is left of the budget (R86). -/
theorem pollWait_low (n : Nat) {s : State} {rest : List Answer} (answers : s.answers = Answer.done false :: rest) :
    ∃ t, pollWait (n + 1) s = .done () t := by
  simp [pollWait, dioRead_completes s false rest answers]

/-! `SEND_BYTE` as an instruction tells its caller how the wait ended (R87). -/

theorem exec_sendByte_of_raised {v : Byte} {s t : State} {e : Err} (h : sendByte v s = .raised e t) :
    ∃ u, exec (.sendByte v) s = .next u ∧ u.reply = .raised e :=
  ⟨_, rfl, by rw [h, settle_raised, raise_reply]⟩

theorem exec_sendByte_of_done {v : Byte} {s t : State} (h : sendByte v s = .done () t) :
    ∃ u, exec (.sendByte v) s = .next u ∧ u.reply = .ok :=
  ⟨_, rfl, by rw [h, settle_done, setReply_reply]⟩

end Sys2Proof.Machine

open Sys2Proof Sys2Proof.Machine Sys2Proof.Safety

/-- Settles O44: its first and last clause are read off `exec_reported`; in the others `sendByte_waits` leads to the
read, or the empty budget, that decides. -/
theorem firstErrorIsReported : Obligations.FirstErrorIsReported := by
  unfold Obligations.FirstErrorIsReported
  refine ⟨?failedIsLast, ?failedRead, ?allHigh, ?lowRead, ?timeout⟩
  case failedIsLast =>
    intro i s t pre post a run events
    obtain ⟨seg, events', ends⟩ := exec_reported i s t run
    rw [events', List.append_assoc, List.append_cancel_left_eq] at events
    rw [events] at ends
    obtain ⟨last, info, fault⟩ := ends.failed_last
    exact ⟨last, info, reply_of_error? fault⟩
  case failedRead =>
    intro v s ds rest k info drives hk answers
    obtain ⟨t, waits, left⟩ := sendByte_waits v (254 - k + 1) k (by omega) drives answers
    obtain ⟨u, raised⟩ := pollWait_failed (254 - k) left
    exact exec_sendByte_of_raised (waits.trans raised)
  case allHigh =>
    intro v s ds rest drives answers
    obtain ⟨t, waits, -⟩ := sendByte_waits v 0 255 rfl drives answers
    exact exec_sendByte_of_raised waits
  case lowRead =>
    intro v s ds rest k drives hk answers
    obtain ⟨t, waits, left⟩ := sendByte_waits v (254 - k + 1) k (by omega) drives answers
    obtain ⟨u, done⟩ := pollWait_low (254 - k) left
    exact exec_sendByte_of_done (waits.trans done)
  case timeout =>
    intro i s t run reply
    obtain ⟨seg, events, ends⟩ := exec_reported i s t run
    rw [reply] at ends
    cases ends with
    | timeout completed highs => exact ⟨seg, events, completed, highs⟩

end

section
/-! The words of the code spaces: what the decoder makes of each, and that it is the inverse of the encoder
(30_encoding.md R50, R60, R61). -/

namespace Sys2Proof

/-! Reading back what was written. -/

/-- A request record is read by its code (R60). -/
theorem decode_encodeRequest (op : Byte) (r : Request) : decode (encodeRequest op r) = decodeRequest op r := rfl

/-- W-ADDR: the format is told by the upper four bits, whatever the address (R53). -/
theorem decodeCommand_addr (a : BitVec 4) : decodeCommand (0xC#4 ++ a) = .instr (.cmdAddr a) := by
  revert a
  decide

/-- W-DISP: the format is told by the upper five bits, whatever the level (R54). -/
theorem decodeCommand_brightOn (l : BitVec 3) : decodeCommand (0b10001#5 ++ l) = .instr (.cmdBrightOn l) := by
  revert l
  decide

theorem decode_encode (i : Instr) : decode (encode i) = .instr i := by
  cases i with
  | cmdAddr a => exact decodeCommand_addr a
  | cmdBrightOn l => exact decodeCommand_brightOn l
  | init | clear | writeRaw | writeHex | writeChars | setBrightness | reservedOp6 | reservedOp7 =>
    exact decode_encodeRequest _ _
  | sendBit b => cases b <;> rfl
  | cmdDataAutoinc | data | start | sendByte | stop | hexDigit | character | bitDelay => rfl

/-! Writing back what was read, one space at a time. -/

theorem addr_format {b : Byte} (h : b &&& 0xF0#8 = 0xC0#8) : 0xC#4 ++ b.setWidth 4 = b := by
  revert b
  decide

theorem brightOn_format {b : Byte} (h : b &&& 0xF8#8 = 0x88#8) : 0b10001#5 ++ b.setWidth 3 = b := by
  revert b
  decide

theorem encode_of_decodeCommand {b : Byte} {i : Instr} (h : decodeCommand b = .instr i) :
    encode i = ⟨.command, [b]⟩ := by
  unfold decodeCommand at h
  split at h
  · next fixed => cases h; rw [fixed]; rfl
  · split at h
    · next format => cases h; rw [encode, addr_format format]
    · split at h
      · next format => cases h; rw [encode, brightOn_format format]
      · cases h

theorem encode_of_decodeRequest {op : Byte} {r : Request} {i : Instr} (h : decodeRequest op r = .instr i) :
    encode i = encodeRequest op r := by
  unfold decodeRequest at h
  split_ifs at h <;> cases h <;> subst op <;> rfl

theorem encode_of_decodeTransport {uop operand : Byte} {i : Instr}
    (h : decodeTransport uop operand = .instr i) : encode i = ⟨.transport, [uop, operand]⟩ := by
  unfold decodeTransport at h
  split_ifs at h <;> cases h <;> subst_vars <;> rfl

theorem encode_of_decodeEncoder {sel operand : Byte} {i : Instr}
    (h : decodeEncoder sel operand = .instr i) : encode i = ⟨.encoder, [sel, operand]⟩ := by
  unfold decodeEncoder at h
  split_ifs at h <;> cases h <;> subst_vars <;> rfl

theorem encode_of_decode {c : Call} {i : Instr} (h : decode c = .instr i) : encode i = c := by
  obtain ⟨space, bytes⟩ := c
  cases space with
  | command =>
    match bytes with
    | [b] => exact encode_of_decodeCommand h
    | [] | _ :: _ :: _ => cases h
  | data =>
    match bytes with
    | [b] => cases h; rfl
    | [] | _ :: _ :: _ => cases h
  | request =>
    match bytes with
    | op :: addr :: level :: payload => exact encode_of_decodeRequest h
    | [] | [_] | [_, _] => cases h
  | transport =>
    match bytes with
    | [uop, operand] => exact encode_of_decodeTransport h
    | [] | [_] | _ :: _ :: _ :: _ => cases h
  | encoder =>
    match bytes with
    | [sel, operand] => exact encode_of_decodeEncoder h
    | [] | [_] | _ :: _ :: _ :: _ => cases h
  | build =>
    match bytes with
    | [] => cases h; rfl
    | _ :: _ => cases h

end Sys2Proof

open Sys2Proof

/-- Settles O1. -/
theorem decodeOfEncode : Obligations.DecodeOfEncode := by
  unfold Obligations.DecodeOfEncode
  exact decode_encode

/-- Settles O2: each space's formats are read back by its own lemma. -/
theorem encodeOfDecode : Obligations.EncodeOfDecode := by
  unfold Obligations.EncodeOfDecode
  exact fun _ _ => encode_of_decode

/-- Settles O3. -/
theorem wordsFromTheTables : Obligations.WordsFromTheTables := by
  unfold Obligations.WordsFromTheTables
  decide

end

section
/-! The encoder's tables entry by entry, the bit period, and what building a block fixes (40_encoder.md R70,
R74, R77; 41_transport.md R80). -/

namespace Sys2Proof.Machine

/-! Look-ups by number. -/

/-- The mask and the 4-bit reading of the index are the remainder modulo 16 (R70). -/
theorem hexIndex_eq (n : Byte) : ((n &&& 0x0F#8).setWidth 4).toNat = n.toNat % 16 := by
  revert n
  decide

theorem hexRom_getD (c : Config) {k : Nat} (h : k < 16) : c.hexRom.toList.getD k 0#8 = c.hexRom[k] := by
  rw [List.getD_eq_getElem _ _ (by rwa [Vector.length_toList]), Vector.getElem_toList]

theorem hexPattern_eq_getD (c : Config) (n : Byte) :
    hexPattern c n = c.hexRom.toList.getD (n.toNat % 16) 0#8 := by
  rw [hexRom_getD c (Nat.mod_lt _ (by decide)), hexPattern, cfg_nibbleMask, Vector.get_eq_getElem]
  exact getElem_congr rfl (hexIndex_eq n) _

theorem letterEntry_eq_getD (c : Config) (k : Nat) : letterEntry c k = c.letterRom.toList.getD k 0#8 := by
  rw [letterEntry, cfg_blank]

theorem charPattern_upper (c : Config) {k : Nat} (h : k < 26) :
    charPattern c (BitVec.ofNat 8 (0x41 + k)) = c.letterRom.toList.getD k 0#8 := by
  have code : (BitVec.ofNat 8 (0x41 + k)).toNat = 0x41 + k := Nat.mod_eq_of_lt (by omega)
  rw [charPattern, code, if_pos (by omega), Nat.add_sub_cancel_left, letterEntry_eq_getD]

theorem charPattern_lower (c : Config) {k : Nat} (h : k < 26) :
    charPattern c (BitVec.ofNat 8 (0x61 + k)) = c.letterRom.toList.getD k 0#8 := by
  have code : (BitVec.ofNat 8 (0x61 + k)).toNat = 0x61 + k := Nat.mod_eq_of_lt (by omega)
  rw [charPattern, code, if_neg (by omega), if_pos (by omega), Nat.add_sub_cancel_left, letterEntry_eq_getD]

/-- A code with a letter's number is that letter's code. -/
theorem eq_ofNat_of_sub {base : Nat} {v : Byte} (h : base ≤ v.toNat) :
    v = BitVec.ofNat 8 (base + (v.toNat - base)) := by
  rw [Nat.add_sub_cancel' h, BitVec.ofNat_toNat, BitVec.setWidth_eq]

theorem charPattern_other (c : Config) {v : Byte}
    (h : ∀ k, k < 26 → v ≠ BitVec.ofNat 8 (0x41 + k) ∧ v ≠ BitVec.ofNat 8 (0x61 + k)) :
    charPattern c v = 0#8 := by
  have noUpper : ¬ (0x41 ≤ v.toNat ∧ v.toNat ≤ 0x5A) := fun upper =>
    (h (v.toNat - 0x41) (by omega)).1 (eq_ofNat_of_sub upper.1)
  have noLower : ¬ (0x61 ≤ v.toNat ∧ v.toNat ≤ 0x7A) := fun lower =>
    (h (v.toNat - 0x61) (by omega)).2 (eq_ofNat_of_sub lower.1)
  rw [charPattern, if_neg noUpper, if_neg noLower, cfg_blank]

/-! The bit period. -/

/-- `DELAY_US` covers half a clock period, and nothing less does (R80). -/
theorem delayUs_le_iff (c : Config) (m : Nat) : delayUs c ≤ m ↔ 1000 ≤ m * (2 * c.maxFreqKHz) := by
  have pos : 0 < 2 * c.maxFreqKHz := Nat.mul_pos (by decide) c.maxFreqLegal
  rw [delayUs, ← Nat.ceilDiv_eq_add_pred_div, ceilDiv_le_iff_le_mul pos, Nat.mul_comm]

theorem delayUs_pos (c : Config) : 1 ≤ delayUs c := by
  by_contra zero
  have covers := (delayUs_le_iff c 0).1 (by omega)
  omega

/-! Instructions that answer at once. -/

theorem exec_bitDelay (s : State) : exec .bitDelay s = .next { s with reply := .micros (delayUs s.cfg) } := rfl

theorem exec_character_refused {s : State} (h : s.cfg.hasChar = false) (c : Byte) :
    exec (.character c) s = .refused .noLetterTable := by
  simp [exec, execCharacter, h]

theorem exec_reserved (r : Request) (s : State) :
    exec (.reservedOp6 r) s = .next s.turnAway ∧ exec (.reservedOp7 r) s = .next s.turnAway := ⟨rfl, rfl⟩

theorem exec_writeChars_refused {s : State} (h : s.cfg.hasChar = false) (r : Request) :
    exec (.writeChars r) s = .next s.turnAway := by
  simp [exec, execWriteChars, h]

/-- `CHARACTER` without the letter table is the one instruction that answers no next state. -/
theorem exec_answers (i : Instr) (s : State) :
    (∃ t, exec i s = .next t)
      ∨ (∃ c, i = .character c ∧ s.cfg.hasChar = false ∧ exec i s = .refused .noLetterTable) := by
  cases i with
  | character c =>
    cases has : s.cfg.hasChar with
    | true => exact .inl ⟨_, exec_character has c⟩
    | false => exact .inr ⟨c, rfl, rfl, exec_character_refused has c⟩
  | cmdDataAutoinc | cmdAddr | cmdBrightOn | data | init | clear | writeRaw | writeHex | writeChars
  | setBrightness | reservedOp6 | reservedOp7 | start | sendBit | sendByte | stop | hexDigit | bitDelay =>
    exact .inl ⟨_, rfl⟩

end Sys2Proof.Machine

open Sys2Proof Sys2Proof.Machine Sys2Proof.Safety

/-- Settles O10. -/
theorem hexDigitResult : Obligations.HexDigitResult := by
  unfold Obligations.HexDigitResult
  intro n s
  obtain ⟨entry0, entry1, entry15⟩ := s.cfg.hexRomFixed
  rw [exec_hexDigit, hexPattern_eq_getD]
  refine ⟨rfl, ?_, ?_, ?_⟩
  · intro digit; rw [digit, hexRom_getD _ (by decide), entry0]
  · intro digit; rw [digit, hexRom_getD _ (by decide), entry1]
  · intro digit; rw [digit, hexRom_getD _ (by decide), entry15]

/-- Settles O11. -/
theorem characterResult : Obligations.CharacterResult := by
  unfold Obligations.CharacterResult
  intro s hasChar
  refine ⟨fun k hk => ?_, fun c noLetter => ?_⟩
  · rw [exec_character hasChar, exec_character hasChar, charPattern_upper _ hk, charPattern_lower _ hk]
    exact ⟨rfl, rfl⟩
  · rw [exec_character hasChar, charPattern_other _ noLetter]

/-- Settles O14: `delayUs_le_iff` says which numbers cover half a period. -/
theorem bitDelayIsCeiling : Obligations.BitDelayIsCeiling := by
  unfold Obligations.BitDelayIsCeiling
  intro s
  exact ⟨delayUs s.cfg, exec_bitDelay s, delayUs_pos s.cfg, (delayUs_le_iff _ _).1 le_rfl,
    fun m => (delayUs_le_iff _ _).2⟩

/-- Settles O15. -/
theorem zeroFrequencyNotBuilt : Obligations.ZeroFrequencyNotBuilt := by
  unfold Obligations.ZeroFrequencyNotBuilt
  refine ⟨fun f h rom => ⟨?zero, ?positive⟩, ?fixed⟩
  case zero => rintro rfl; rfl
  case positive => exact fun pos => ⟨_, dif_pos pos, rfl, rfl, rfl, rfl⟩
  case fixed => exact fun c => ⟨c.maxFreqLegal, by simp⟩

/-- Settles O9. -/
theorem everyInstructionAnswers : Obligations.EveryInstructionAnswers := by
  unfold Obligations.EveryInstructionAnswers
  exact exec_answers

/-- Settles O33. -/
theorem reservedCodesRefused : Obligations.ReservedCodesRefused := by
  unfold Obligations.ReservedCodesRefused
  exact exec_reserved

end

section
/-! The transport primitives on given answers, and what they leave alone on any (41_transport.md R81 to R89). -/

namespace Sys2Proof.Machine

open Sys2Proof.Safety

/-! The latches and the counts of each stretch of events. -/

theorem latchView_eq_some {known : Bool} {l c : Level} (h : latchView known l = some c) :
    known = true ∧ l = c := by
  cases known with
  | true => exact ⟨rfl, Option.some.inj h⟩
  | false => cases h

/-- The wait drives no line (R86). -/
@[simp] theorem foldl_clkAfter_traceHighs (us k : Nat) (x : Option Level) :
    (traceHighs us k).foldl clkAfter x = x := by
  induction k with
  | zero => rfl
  | succ k ih => rw [traceHighs_succ, List.foldl_append]; exact ih

@[simp] theorem foldl_dioAfter_traceHighs (us k : Nat) (x : Option Level) :
    (traceHighs us k).foldl dioAfter x = x := by
  induction k with
  | zero => rfl
  | succ k ih => rw [traceHighs_succ, List.foldl_append]; exact ih

/-- The acknowledgement clock leaves CLK high and DIO released (R85). -/
@[simp] theorem foldl_clkAfter_traceShift (us : Nat) (v : Byte) (x : Option Level) :
    (traceShift us v).foldl clkAfter x = some true := rfl

@[simp] theorem foldl_dioAfter_traceShift (us : Nat) (v : Byte) (x : Option Level) :
    (traceShift us v).foldl dioAfter x = some true := rfl

@[simp] theorem foldl_clkAfter_traceByte (us k : Nat) (v : Byte) (x : Option Level) :
    (traceByte us v k).foldl clkAfter x = some true := by
  simp [traceByte, clkAfter]

@[simp] theorem foldl_dioAfter_traceByte (us k : Nat) (v : Byte) (x : Option Level) :
    (traceByte us v k).foldl dioAfter x = some true := by
  simp [traceByte, dioAfter]

theorem countP_traceHighs (p : Event → Bool) (us k : Nat) :
    (traceHighs us k).countP p = k * [Event.dioRead true, Event.delay us].countP p := by
  induction k with
  | zero => simp [traceHighs]
  | succ k ih => rw [traceHighs_succ, List.countP_append, ih, Nat.succ_mul, Nat.add_comm]

theorem countP_traceByte (p : Event → Bool) (us k : Nat) (v : Byte) :
    (traceByte us v k).countP p = (traceShift us v).countP p
      + k * [Event.dioRead true, Event.delay us].countP p + [Event.dioRead false].countP p := by
  rw [traceByte, List.countP_append, List.countP_append, countP_traceHighs]

@[simp] theorem countP_isAccess_traceHighs (us k : Nat) : (traceHighs us k).countP isAccess = k := by
  rw [countP_traceHighs]
  exact Nat.mul_one k

theorem countP_isAccess_traceByte (us k : Nat) (v : Byte) : (traceByte us v k).countP isAccess = 28 + k := by
  rw [countP_traceByte]
  change 27 + k * 1 + 1 = 28 + k
  omega

/-! A state whose latches are known is its history and its registers. -/

/-- The state `t` with what its history from `s` fixes written out. -/
theorem History.eq_of_latches {s t : State} {seg : List Event} {c d : Level} (h : History s t seg)
    (clk : seg.foldl clkAfter (latchView s.clkKnown s.clkO) = some c)
    (dio : seg.foldl dioAfter (latchView s.dioKnown s.dioO) = some d) :
    t = { t with
      cfg := s.cfg, requests := s.requests, calls := s.calls, clkO := c, clkKnown := true, dioO := d,
      dioKnown := true, answers := s.answers.drop (seg.countP isAccess),
      accesses := s.accesses + seg.countP isAccess, events := s.events ++ seg } := by
  obtain ⟨clkKnown, clkO⟩ := latchView_eq_some (h.clk.trans clk)
  obtain ⟨dioKnown, dioO⟩ := latchView_eq_some (h.dio.trans dio)
  cases t
  simp only [State.mk.injEq, true_and]
  exact ⟨h.cfg, clkO, clkKnown, dioO, dioKnown, h.requests, h.calls, h.answers, h.accesses, h.events⟩

theorem SameCommand.eq_of_latches {s t : State} {seg : List Event} {c d : Level} (same : SameCommand s t)
    (h : History s t seg) (clk : seg.foldl clkAfter (latchView s.clkKnown s.clkO) = some c)
    (dio : seg.foldl dioAfter (latchView s.dioKnown s.dioO) = some d) :
    t = { s with
      shreg := t.shreg, bitCnt := t.bitCnt, pollCnt := t.pollCnt, clkO := c, clkKnown := true, dioO := d,
      dioKnown := true, answers := s.answers.drop (seg.countP isAccess),
      accesses := s.accesses + seg.countP isAccess, events := s.events ++ seg } := by
  rw [h.eq_of_latches clk dio]
  simp only [same.phase, same.op, same.addr, same.level, same.byteCnt, same.result, same.resultKnown,
    same.reply, same.todo, same.payload, same.taken]

/-! Completing runs. -/

/-- A primitive with fixed events, all of whose accesses complete. -/
theorem Straight.completes {s : State} {tr : List Event} {x : Flow Unit} {ds rest : List Answer}
    (h : Straight s tr x) (drives : Drives (tr.countP isAccess) ds) (answers : s.answers = ds ++ rest) :
    ∃ t, x = .done () t ∧ History s t tr ∧ SameCommand s t ∧ t.answers = rest := by
  obtain ⟨t, done, left⟩ := h.done_of_drives drives answers
  rcases h with ⟨u, done', hist, same⟩ | ⟨info, u, raised, -⟩
  · cases done.symm.trans done'
    exact ⟨t, done, hist, same, left⟩
  · cases done.symm.trans raised

/-- The state such a primitive leaves as an instruction, where it does not touch `SHREG`, `BIT_CNT` and
`POLL_CNT`. -/
theorem Straight.settle_completes {s : State} {tr : List Event} {x : Flow Unit} {ds rest : List Answer}
    {n : Nat} {c d : Level} (h : Straight s tr x) (still : StillShift s x) (drives : Drives n ds)
    (answers : s.answers = ds ++ rest) (count : tr.countP isAccess = n)
    (clk : tr.foldl clkAfter (latchView s.clkKnown s.clkO) = some c)
    (dio : tr.foldl dioAfter (latchView s.dioKnown s.dioO) = some d) :
    settle x = { s with
      clkO := c, clkKnown := true, dioO := d, dioKnown := true, reply := .ok, answers := rest,
      accesses := s.accesses + n, events := s.events ++ tr } := by
  obtain ⟨t, done, hist, same, left⟩ := h.completes (count ▸ drives) answers
  obtain ⟨shreg, bitCnt, pollCnt⟩ := still.1 t done
  rw [done, settle_done, same.eq_of_latches hist clk dio, ← hist.answers, left, count, shreg, bitCnt, pollCnt]
  rfl

/-- The wait's accesses are its reads: `k` high ones and the low one. -/
theorem pollWait_acked (n k : Nat) {s : State} {rest : List Answer}
    (answers : s.answers = List.replicate k (Answer.done true) ++ Answer.done false :: rest) :
    ∃ t, pollWait (n + 1 + k) s = .done () t ∧ t.answers = rest ∧ t.accesses = s.accesses + k + 1 := by
  induction k generalizing s with
  | zero => exact ⟨_, by rw [pollWait, dioRead_completes s false rest answers]; rfl, by simp [answers], rfl⟩
  | succ k ih =>
    rw [List.replicate_succ, List.cons_append] at answers
    obtain ⟨t, done, left, count⟩ := ih
      (s := (delay (s.tookAnswer.record (.dioRead true))).setPollCnt (s.pollCnt + 1#8)) (by simp [answers])
    refine ⟨t, ?_, left, by rw [count]; simp; omega⟩
    rw [← done, ← Nat.add_assoc, pollWait, dioRead_completes s true _ answers]
    rfl

/-- What `SEND_BYTE` leaves in its own registers, `POLL_CNT` holding `k` (R16 to R18). -/
structure ByteEnd (t : State) (k : Nat) : Prop where
  shreg : t.shreg = 0#8
  bitCnt : t.bitCnt = 8#4
  pollCnt : t.pollCnt = BitVec.ofNat 8 k

/-- The bits of a byte whose 27 drives complete, before its wait. -/
theorem sendByte_eq_pollWait (v : Byte) {s : State} {ds rest : List Answer} (drives : Drives 27 ds)
    (answers : s.answers = ds ++ rest) :
    ∃ t, sendByte v s = pollWait 255 t ∧ t.answers = rest ∧ t.accesses = s.accesses + 27 := by
  obtain ⟨t, shifted, hist, -, left⟩ := (shift_straight v s).completes
    (by rwa [countP_isAccess_traceShift]) answers
  refine ⟨t.setPollCnt 0#8, ?_, left, by rw [setPollCnt_accesses, hist.accesses, countP_isAccess_traceShift]⟩
  rw [← cfg_ackPolls t.cfg, sendByte, ← bind_assoc, shifted, bind_done]

/-- A byte acknowledged after `k` high reads (R87). -/
theorem sendByte_acked (v : Byte) {k : Nat} {s : State} {as rest : List Answer} (acked : ByteAcked k as)
    (answers : s.answers = as ++ rest) :
    ∃ t, sendByte v s = .done () t ∧ History s t (traceByte (delayUs s.cfg) v k) ∧ SameCommand s t
      ∧ ByteEnd t k ∧ t.answers = rest := by
  obtain ⟨hk, ds, drives, rfl⟩ := acked
  simp only [List.append_assoc, List.singleton_append] at answers
  obtain ⟨u, waits, left, count⟩ := sendByte_eq_pollWait v drives answers
  obtain ⟨t, polled, left', count'⟩ := pollWait_acked (254 - k) k left
  rw [show 254 - k + 1 + k = 255 by omega, ← waits] at polled
  rcases sendByte_cases v s with ⟨j, t', -, done, hist, same, shreg, bitCnt, pollCnt⟩ | ⟨j, info, t', -, raised, -⟩ |
    ⟨t', raised, -⟩
  · cases polled.symm.trans done
    have reads : j = k := by
      have := hist.accesses
      rw [countP_isAccess_traceByte] at this
      omega
    subst reads
    exact ⟨t, done, hist, same, ⟨shreg, bitCnt, pollCnt⟩, left'⟩
  · cases polled.symm.trans raised
  · cases polled.symm.trans raised

/-- A byte never acknowledged (R86, R87). -/
theorem sendByte_unacked (v : Byte) {s : State} {as rest : List Answer} (unacked : ByteUnacked as)
    (answers : s.answers = as ++ rest) :
    ∃ t, sendByte v s = .raised .ackTimeout t
      ∧ History s t (traceShift (delayUs s.cfg) v ++ traceHighs (delayUs s.cfg) 255) ∧ SameCommand s t
      ∧ ByteEnd t 255 ∧ t.answers = rest := by
  obtain ⟨ds, drives, rfl⟩ := unacked
  obtain ⟨u, waits, left⟩ := sendByte_waits v 0 255 rfl drives answers
  have polled : sendByte v s = .raised .ackTimeout u := waits
  rcases sendByte_cases v s with ⟨j, t', -, done, -⟩ | ⟨j, info, t', -, raised, -⟩ |
    ⟨t', raised, hist, same, shreg, bitCnt, pollCnt⟩
  · cases polled.symm.trans done
  · cases polled.symm.trans raised
  · cases polled.symm.trans raised
    exact ⟨u, raised, hist, same, ⟨shreg, bitCnt, pollCnt⟩, left⟩

theorem byteAcked_length {k : Nat} {as : List Answer} (h : ByteAcked k as) : as.length = 28 + k := by
  obtain ⟨-, ds, ⟨length, -⟩, rfl⟩ := h
  simp only [List.length_append, length, List.length_replicate, List.length_singleton]
  omega

/-- The registers of the caller's state after an acknowledged byte, all written out. -/
theorem sendByte_acked_state {v : Byte} {k : Nat} {s : State} {as rest : List Answer} (acked : ByteAcked k as)
    (answers : s.answers = as ++ rest) :
    ∃ t, sendByte v s = .done () t ∧ t.setReply .ok = byteSent s v k as rest := by
  obtain ⟨t, done, hist, same, ends, left⟩ := sendByte_acked v acked answers
  refine ⟨t, done, ?_⟩
  rw [same.eq_of_latches hist (foldl_clkAfter_traceByte ..) (foldl_dioAfter_traceByte ..), ← hist.answers, left,
    countP_isAccess_traceByte, ← byteAcked_length acked, ends.shreg, ends.bitCnt, ends.pollCnt]
  rfl

theorem settle_sendCommand_acked {c : Byte} {k : Nat} {s : State} {as rest : List Answer}
    (acked : ByteAcked k as) (answers : s.answers = as ++ rest) :
    settle (sendCommand c s) = { byteSent s c k as rest with byteCnt := 1 } := by
  obtain ⟨t, done, sent⟩ := sendByte_acked_state (v := c) acked answers
  rw [sendCommand, done, bind_done, settle_done, ← sent]
  rfl

theorem settle_sendData_acked {d : Byte} {k : Nat} {s : State} {as rest : List Answer}
    (acked : ByteAcked k as) (answers : s.answers = as ++ rest) :
    settle (sendData d s) = { byteSent s d k as rest with byteCnt := s.byteCnt + 1 } := by
  obtain ⟨t, done, sent⟩ := sendByte_acked_state (v := d) acked answers
  have count : t.byteCnt = s.byteCnt := by rw [← setReply_byteCnt t .ok, sent]; rfl
  rw [sendData, done, bind_done, settle_done, ← sent, count]
  rfl

/-! The command bytes as numbers: the OR of disjoint bits is their sum (R53, R54, R57). -/

theorem cmdAddrByte_of_field (c : Config) (a : BitVec 4) :
    cmdAddrByte c (a.setWidth 8) = BitVec.ofNat 8 (0xC0 + a.toNat) := by
  rw [cmdAddrByte, cfg_opcAddr, cfg_addrMask]
  revert a
  decide

theorem cmdBrightByte_of_field (c : Config) (l : BitVec 3) :
    cmdBrightByte c (l.setWidth 8) = BitVec.ofNat 8 (0x88 + l.toNat) := by
  rw [cmdBrightByte, cfg_opcBrightOn, cfg_levelMask]
  revert l
  decide

/-! What a primitive or a wire byte leaves alone, however it ends. -/

/-- However the flow ends, it has some history, and the registers of `SameCommand` stand. -/
def Steady (s : State) (x : Flow Unit) : Prop := (∃ seg, History s x.last seg) ∧ SameCommand s x.last

theorem Straight.steady {s : State} {tr : List Event} {x : Flow Unit} (h : Straight s tr x) : Steady s x := by
  rcases h with ⟨t, rfl, hist, same⟩ | ⟨info, t, rfl, ⟨⟨_, _, _, _, -, -, -, hist, -⟩, same⟩⟩
  · exact ⟨⟨_, hist⟩, same⟩
  · exact ⟨⟨_, hist⟩, same⟩

theorem sendByte_steady (v : Byte) (s : State) : Steady s (sendByte v s) := by
  rcases sendByte_cases v s with ⟨k, t, -, h, hist, same, -⟩ |
    ⟨k, info, t, -, h, ⟨⟨_, _, _, _, -, -, -, hist, -⟩, same⟩⟩ | ⟨t, h, hist, same, -⟩ <;>
    rw [h] <;> exact ⟨⟨_, hist⟩, same⟩

/-- The end of an instruction writes the reply, and the registers of an abort where it aborts. -/
theorem settle_eq (x : Flow Unit) :
    (∃ r, settle x = x.last.setReply r) ∨ (∃ e, x.last.phase ≠ .idle ∧ settle x = x.last.abort e) := by
  cases x with
  | done a s => exact .inl ⟨_, rfl⟩
  | raised e s =>
    by_cases idle : s.phase = .idle
    · exact .inl ⟨_, raise_idle s e idle⟩
    · exact .inr ⟨e, idle, raise_busy s e idle⟩

/-- A wire byte is its `SEND_BYTE`, counted when that was acknowledged (R100). -/
theorem settle_sendCommand_eq (c : Byte) (s : State) :
    settle (sendCommand c s) = settle (sendByte c s)
      ∨ (settle (sendCommand c s)) = (settle (sendByte c s)).setByteCnt 1 ∧ (settle (sendByte c s)).reply = .ok := by
  rcases sendCommand_cases c s with ⟨t, sent, counted⟩ | ⟨e, t, raised, raised'⟩
  · exact .inr (by rw [sent, counted]; exact ⟨rfl, rfl⟩)
  · exact .inl (by rw [raised, raised'])

theorem settle_sendData_eq (d : Byte) (s : State) :
    settle (sendData d s) = settle (sendByte d s)
      ∨ (settle (sendData d s)) = (settle (sendByte d s)).setByteCnt (s.byteCnt + 1)
        ∧ (settle (sendByte d s)).reply = .ok := by
  rcases sendData_cases d s with ⟨t, sent, counted⟩ | ⟨e, t, raised, raised'⟩
  · exact .inr (by rw [sent, counted]; exact ⟨rfl, rfl⟩)
  · exact .inl (by rw [raised, raised'])

/-- What an instruction that is no request leaves alone of `s`, ending in `t` (R19, R124). -/
structure Framed (s t : State) : Prop where
  cfg : t.cfg = s.cfg
  calls : t.calls = s.calls
  op : t.op = s.op
  addr : t.addr = s.addr
  level : t.level = s.level
  byteCnt : t.byteCnt = s.byteCnt
  requests : t.requests = s.requests
  payload : t.payload = s.payload
  taken : t.taken = s.taken
  progress : t.reply = .ok ∨ s.phase = .idle →
    t.phase = s.phase ∧ t.result = s.result ∧ t.resultKnown = s.resultKnown ∧ t.todo = s.todo

theorem Steady.framed {s : State} {x : Flow Unit} (h : Steady s x) : Framed s (settle x) := by
  obtain ⟨⟨seg, hist⟩, same⟩ := h
  rcases settle_eq x with ⟨r, eq⟩ | ⟨e, busy, eq⟩
  · rw [eq]
    exact ⟨hist.cfg, hist.calls, same.op, same.addr, same.level, same.byteCnt, hist.requests, same.payload,
      same.taken, fun _ => ⟨same.phase, same.result, same.resultKnown, same.todo⟩⟩
  · rw [eq]
    refine ⟨hist.cfg, hist.calls, same.op, same.addr, same.level, same.byteCnt, hist.requests, same.payload,
      same.taken, ?_⟩
    rintro (ok | idle)
    · cases ok
    · exact absurd (same.phase.trans idle) busy

theorem StillShift.settle {s : State} {x : Flow Unit} (h : StillShift s x) : SameShift s (settle x) := by
  have last : SameShift s x.last := by
    cases x with
    | done a t => exact h.1 t rfl
    | raised e t => exact h.2 e t rfl
  rcases settle_eq x with ⟨r, eq⟩ | ⟨e, -, eq⟩ <;> rw [eq] <;> exact ⟨last.shreg, last.bitCnt, last.pollCnt⟩

/-! What a primitive that ends in success, or in the timeout, has done. -/

theorem Straight.history_of_ok {s : State} {tr : List Event} {x : Flow Unit} (h : Straight s tr x)
    (ok : (settle x).reply = .ok) : History s (settle x) tr := by
  rcases h with ⟨t, rfl, hist, -⟩ | ⟨info, t, rfl, -⟩
  · simpa using hist.trans (settle_history (.done () t))
  · rw [settle_raised, raise_reply] at ok; cases ok

theorem sendByte_history_of_ok {v : Byte} {s : State} (ok : (settle (sendByte v s)).reply = .ok) :
    ∃ k, k < 255 ∧ History s (settle (sendByte v s)) (traceByte (delayUs s.cfg) v k)
      ∧ (settle (sendByte v s)).pollCnt = BitVec.ofNat 8 k := by
  rcases sendByte_cases v s with ⟨k, t, hk, done, hist, -, -, -, pollCnt⟩ | ⟨k, info, t, -, raised, -⟩ |
    ⟨t, raised, -⟩
  · rw [done]
    exact ⟨k, hk, by simpa using hist.trans (settle_history (.done () t)), pollCnt⟩
  · rw [raised, settle_raised, raise_reply] at ok; cases ok
  · rw [raised, settle_raised, raise_reply] at ok; cases ok

theorem sendByte_history_of_timeout {v : Byte} {s : State}
    (timeout : (settle (sendByte v s)).reply = .raised .ackTimeout) :
    History s (settle (sendByte v s)) (traceShift (delayUs s.cfg) v ++ traceHighs (delayUs s.cfg) 255) := by
  rcases sendByte_cases v s with ⟨k, t, hk, done, -⟩ | ⟨k, info, t, -, raised, -⟩ | ⟨t, raised, hist, -⟩
  · rw [done, settle_done] at timeout; cases timeout
  · rw [raised, settle_raised, raise_reply] at timeout; cases timeout
  · rw [raised]
    simpa using hist.trans (settle_history (.raised .ackTimeout t))

end Sys2Proof.Machine

open Sys2Proof Sys2Proof.Machine Sys2Proof.Safety

/-- Settles O16. -/
theorem sendBitCompletes : Obligations.SendBitCompletes := by
  unfold Obligations.SendBitCompletes
  intro b s as rest drives answers
  exact congrArg Host.Outcome.next
    ((sendBit_straight b s).settle_completes (sendBit_still b s) drives answers rfl rfl rfl)

/-- Settles O17. -/
theorem startCompletes : Obligations.StartCompletes := by
  unfold Obligations.StartCompletes
  intro s as rest drives answers
  exact congrArg Host.Outcome.next
    ((startCondition_straight s).settle_completes (startCondition_still s) drives answers rfl rfl rfl)

/-- Settles O18. -/
theorem stopCompletes : Obligations.StopCompletes := by
  unfold Obligations.StopCompletes
  intro s as rest drives answers
  exact congrArg Host.Outcome.next
    ((stopCondition_straight s).settle_completes (stopCondition_still s) drives answers rfl rfl rfl)

/-- Settles O19. -/
theorem sendByteCompletes : Obligations.SendByteCompletes := by
  unfold Obligations.SendByteCompletes
  intro v k s as rest acked answers
  obtain ⟨t, done, sent⟩ := sendByte_acked_state (v := v) acked answers
  rw [exec, execSendByte, done, settle_done, sent]

/-- Settles O20: in Idle the raise goes to the caller, otherwise it is the abort. -/
theorem sendByteTimesOut : Obligations.SendByteTimesOut := by
  unfold Obligations.SendByteTimesOut
  intro v s as rest unacked answers
  obtain ⟨t, raised, hist, same, ends, left⟩ := sendByte_unacked v unacked answers
  have count : (traceShift (delayUs s.cfg) v ++ traceHighs (delayUs s.cfg) 255).countP isAccess = 282 := by
    rw [List.countP_append, countP_isAccess_traceShift, countP_isAccess_traceHighs]
  have state := same.eq_of_latches hist (c := true) (d := true) (by simp) (by simp)
  rw [← hist.answers, left, count, ends.shreg, ends.bitCnt, ends.pollCnt, ← List.append_assoc] at state
  rw [exec, execSendByte, raised, settle_raised]
  by_cases idle : s.phase = .idle
  · rw [raise_idle t _ (same.phase.trans idle), state]
    simp only [if_pos idle, State.setReply]
    rw [idle]
  · rw [raise_busy t _ (same.phase ▸ idle), state]
    simp only [if_neg idle, State.abort]
    rfl

/-- Settles O24: the command byte is assembled by OR of disjoint bits, which is their sum. -/
theorem commandBytesSent : Obligations.CommandBytesSent := by
  unfold Obligations.CommandBytesSent
  intro k s as rest acked answers
  refine ⟨?_, fun a => ?_, fun l => ?_⟩
  · rw [exec, execCmdDataAutoinc, settle_sendCommand_acked acked answers, cfg_opcDataAutoinc]
  · rw [exec, execCmdAddr, settle_sendCommand_acked acked answers, cmdAddrByte_of_field]
  · rw [exec, execCmdBrightOn, settle_sendCommand_acked acked answers, cmdBrightByte_of_field]

/-- Settles O25. -/
theorem dataByteSent : Obligations.DataByteSent := by
  unfold Obligations.DataByteSent
  intro d k s as rest acked answers
  rw [exec, execData, settle_sendData_acked acked answers]

/-- Settles O22: a primitive that ends in success has all of its events, and the counts are theirs. -/
theorem eventCounts : Obligations.EventCounts := by
  unfold Obligations.EventCounts
  intro i s t seg run events
  have segment : ∀ {tr}, History s t tr → seg = tr := fun hist =>
    List.append_cancel_left (events.symm.trans hist.events)
  refine ⟨?byte, ?timeout, ?bit, ?start, ?stop⟩
  case byte =>
    rintro v rfl ok
    cases run
    obtain ⟨k, hk, hist, pollCnt⟩ := sendByte_history_of_ok ok
    have clk : seg.countP isClkSet = 18 + k * 0 + 0 := by rw [segment hist, countP_traceByte]; rfl
    have dio : seg.countP isDioSet = 9 + k * 0 + 0 := by rw [segment hist, countP_traceByte]; rfl
    have reads : seg.countP isDioRead = 0 + k * 1 + 1 := by rw [segment hist, countP_traceByte]; rfl
    have delays : seg.countP isDelay = 9 + k * 1 + 0 := by rw [segment hist, countP_traceByte]; rfl
    rw [clk, dio, reads, delays, pollCnt, BitVec.toNat_ofNat]
    omega
  case timeout =>
    rintro v rfl timedOut
    cases run
    rw [segment (sendByte_history_of_timeout timedOut)]
    simp only [List.countP_append, countP_traceHighs]
    exact ⟨rfl, rfl, rfl, rfl⟩
  case bit =>
    rintro b rfl ok
    cases run
    rw [segment ((sendBit_straight b s).history_of_ok ok)]
    exact ⟨rfl, rfl, rfl, rfl⟩
  case start =>
    rintro rfl ok
    cases run
    rw [segment ((startCondition_straight s).history_of_ok ok)]
    exact ⟨rfl, rfl, rfl, rfl⟩
  case stop =>
    rintro rfl ok
    cases run
    rw [segment ((stopCondition_straight s).history_of_ok ok)]
    exact ⟨rfl, rfl, rfl, rfl⟩

/-- Settles O23: each primitive is `Steady`, and the three that move no byte are `StillShift`. -/
theorem transportFrame : Obligations.TransportFrame := by
  unfold Obligations.TransportFrame
  intro i s t primitive run
  have flow : ∃ x, settle x = t ∧ Steady s x ∧ ((∀ v, i ≠ .sendByte v) → StillShift s x) := by
    rcases primitive with rfl | rfl | ⟨b, rfl⟩ | ⟨v, rfl⟩ <;> cases run
    · exact ⟨_, rfl, (startCondition_straight s).steady, fun _ => startCondition_still s⟩
    · exact ⟨_, rfl, (stopCondition_straight s).steady, fun _ => stopCondition_still s⟩
    · exact ⟨_, rfl, (sendBit_straight b s).steady, fun _ => sendBit_still b s⟩
    · exact ⟨_, rfl, sendByte_steady v s, fun other => absurd rfl (other v)⟩
  obtain ⟨x, rfl, steady, still⟩ := flow
  obtain ⟨cfg, calls, op, addr, level, byteCnt, requests, payload, taken, progress⟩ := steady.framed
  refine ⟨cfg, calls, op, addr, level, byteCnt, requests, payload, taken, progress, fun noByte => ?_⟩
  obtain ⟨shreg, bitCnt, pollCnt⟩ := (still noByte).settle
  exact ⟨shreg, bitCnt, pollCnt⟩

/-- Settles O26: a wire byte is the `SEND_BYTE` of its byte, and counted only when that ends in OK. -/
theorem wireByteFrame : Obligations.WireByteFrame := by
  unfold Obligations.WireByteFrame
  intro i s t wire run
  have byte : ∃ v, t = settle (sendByte v s)
      ∨ ∃ n, t = (settle (sendByte v s)).setByteCnt n ∧ (settle (sendByte v s)).reply = .ok := by
    rcases wire with rfl | ⟨a, rfl⟩ | ⟨l, rfl⟩ | ⟨d, rfl⟩ <;> cases run
    · exact ⟨_, (settle_sendCommand_eq _ s).imp_right fun counted => ⟨1, counted⟩⟩
    · exact ⟨_, (settle_sendCommand_eq _ s).imp_right fun counted => ⟨1, counted⟩⟩
    · exact ⟨_, (settle_sendCommand_eq _ s).imp_right fun counted => ⟨1, counted⟩⟩
    · exact ⟨_, (settle_sendData_eq d s).imp_right fun counted => ⟨_, counted⟩⟩
  obtain ⟨v, outcome⟩ := byte
  obtain ⟨cfg, calls, op, addr, level, byteCnt, requests, payload, taken, progress⟩ := (sendByte_steady v s).framed
  rcases outcome with rfl | ⟨n, rfl, ok⟩
  · exact ⟨cfg, calls, op, addr, level, requests, payload, taken, fun _ => byteCnt, progress⟩
  · exact ⟨cfg, calls, op, addr, level, requests, payload, taken, fun notOk => absurd ok notOk, progress⟩

end

section
/-! What XPORT does not see: a change of registers it neither reads nor writes goes through every primitive
unchanged. From it, every operation is one transmission of its bytes (42_commands.md R100 to R108). -/

namespace Sys2Proof.Machine

open Sys2Proof.Safety

/-! Changes of state that pass through a flow. -/

/-- The flow with its last state changed. -/
def Flow.map {α : Type} (g : State → State) : Flow α → Flow α
  | .done a s => .done a (g s)
  | .raised e s => .raised e (g s)

@[simp] theorem map_done {α : Type} (g : State → State) (a : α) (s : State) :
    (Flow.done a s).map g = .done a (g s) := rfl

@[simp] theorem map_raised {α : Type} (g : State → State) (e : Err) (s : State) :
    (Flow.raised e s : Flow α).map g = .raised e (g s) := rfl

/-- XPORT and the wire bytes neither read nor write what `g` changes. -/
structure Unseen (g : State → State) : Prop where
  answers : ∀ s, (g s).answers = s.answers
  accesses : ∀ s, (g s).accesses = s.accesses
  shreg : ∀ s, (g s).shreg = s.shreg
  pollCnt : ∀ s, (g s).pollCnt = s.pollCnt
  byteCnt : ∀ s, (g s).byteCnt = s.byteCnt
  delayUs : ∀ s, delayUs (g s).cfg = delayUs s.cfg
  record : ∀ s e, g (s.record e) = (g s).record e
  tookAnswer : ∀ s, g s.tookAnswer = (g s).tookAnswer
  setClk : ∀ s b k, g (s.setClk b k) = (g s).setClk b k
  setDio : ∀ s b k, g (s.setDio b k) = (g s).setDio b k
  setPhase : ∀ s p, g (s.setPhase p) = (g s).setPhase p
  setByteCnt : ∀ s n, g (s.setByteCnt n) = (g s).setByteCnt n
  loadByte : ∀ s v, g (s.loadByte v) = (g s).loadByte v
  shiftByte : ∀ s, g s.shiftByte = (g s).shiftByte
  setPollCnt : ∀ s n, g (s.setPollCnt n) = (g s).setPollCnt n

/-- `x` runs the same way with and without the change `g`. -/
def Commutes {α : Type} (g : State → State) (x : State → Flow α) : Prop := ∀ s, x (g s) = (x s).map g

section
variable {g : State → State}

theorem Commutes.bind {α β : Type} {x : State → Flow α} {f : α → State → Flow β} (hx : Commutes g x)
    (hf : ∀ a, Commutes g (f a)) : Commutes g fun s => (x s).bind f := by
  intro s
  change (x (g s)).bind f = ((x s).bind f).map g
  rw [hx s]
  cases x s with
  | done a t => exact hf a t
  | raised e t => rfl

theorem Commutes.done : Commutes g (Flow.done ()) := fun _ => rfl

theorem Commutes.after {α : Type} {x : State → Flow α} {h : State → State} (hx : Commutes g x)
    (hh : ∀ s, g (h s) = h (g s)) : Commutes g fun s => x (h s) := by
  intro s
  change x (h (g s)) = _
  rw [← hh s, hx (h s)]

variable (hg : Unseen g)
include hg

theorem Unseen.nextAnswer (s : State) : (g s).nextAnswer = s.nextAnswer := by
  unfold State.nextAnswer
  rw [hg.answers, hg.accesses]

theorem Unseen.delay (s : State) : g (Machine.delay s) = Machine.delay (g s) := by
  unfold Machine.delay
  rw [hg.record, hg.delayUs]

theorem clkSet_commutes (b : Level) : Commutes g (clkSet b) := by
  intro s
  unfold clkSet
  rw [hg.nextAnswer, hg.accesses]
  cases s.nextAnswer <;> simp only [map_done, map_raised, hg.record, hg.setClk, hg.tookAnswer]

theorem dioSet_commutes (b : Level) : Commutes g (dioSet b) := by
  intro s
  unfold dioSet
  rw [hg.nextAnswer, hg.accesses]
  cases s.nextAnswer <;> simp only [map_done, map_raised, hg.record, hg.setDio, hg.tookAnswer]

theorem dioRead_commutes : Commutes g dioRead := by
  intro s
  unfold dioRead
  rw [hg.nextAnswer]
  cases s.nextAnswer <;> simp only [map_done, map_raised, hg.record, hg.tookAnswer]

theorem sendBit_commutes (b : Level) : Commutes g (sendBit b) :=
  (clkSet_commutes hg false).bind fun _ => (dioSet_commutes hg b).bind fun _ =>
    (clkSet_commutes hg true).bind fun _ => Commutes.done.after hg.delay

theorem startCondition_commutes : Commutes g startCondition :=
  (clkSet_commutes hg false).bind fun _ => (dioSet_commutes hg true).bind fun _ =>
    (clkSet_commutes hg true).bind fun _ => (dioSet_commutes hg false).after hg.delay

theorem stopCondition_commutes : Commutes g stopCondition :=
  (clkSet_commutes hg false).bind fun _ => (dioSet_commutes hg false).bind fun _ =>
    (clkSet_commutes hg true).bind fun _ =>
      ((dioSet_commutes hg true).bind fun _ => Commutes.done.after hg.delay).after hg.delay

theorem shiftValue_commutes (n : Nat) : ∀ v, Commutes g (shiftValue v n) := by
  induction n with
  | zero => exact fun _ => Commutes.done
  | succ n ih => exact fun v => (sendBit_commutes hg _).bind fun _ => (ih _).after hg.shiftByte

theorem pollWait_commutes (n : Nat) : Commutes g (pollWait n) := by
  induction n with
  | zero => exact fun _ => rfl
  | succ n ih =>
    refine (dioRead_commutes hg).bind fun r => ?_
    cases r with
    | false => exact Commutes.done
    | true =>
      refine ih.after fun s => ?_
      rw [hg.setPollCnt, hg.delay, hg.pollCnt]

theorem sendByte_commutes (v : Byte) : Commutes g (sendByte v) := by
  have bits : Commutes g fun s => shiftOut 8 (s.loadByte v) := by
    simp only [shiftOut_eq_shiftValue, loadByte_shreg]
    exact (shiftValue_commutes hg 8 v).after fun s => hg.loadByte s v
  refine bits.bind fun _ => (sendBit_commutes hg true).bind fun _ => ?_
  simp only [cfg_ackPolls]
  exact (pollWait_commutes hg 255).after fun s => hg.setPollCnt s 0#8

theorem sendCommand_commutes (c : Byte) : Commutes g (sendCommand c) :=
  (sendByte_commutes hg c).bind fun _ => Commutes.done.after fun s => hg.setByteCnt s 1

theorem sendData_commutes (d : Byte) : Commutes g (sendData d) :=
  (sendByte_commutes hg d).bind fun _ => Commutes.done.after fun s => by rw [hg.setByteCnt, hg.byteCnt]

theorem sendOwn_commutes (ds : List Byte) : Commutes g (sendOwn ds) := by
  induction ds with
  | nil => exact Commutes.done
  | cons d ds ih => exact (sendData_commutes hg d).bind fun _ => ih

end

/-! The frame with its bytes given. -/

/-- A transaction up to its end: the start condition, the bytes, each counted once it is acknowledged, and the stop
condition (R100). -/
def transmit (vs : List Byte) (s : State) : Flow Unit :=
  (startCondition ((s.setPhase .start).setByteCnt 0)).bind fun _ s =>
  (sendOwn vs (s.setPhase .transfer)).bind fun _ s =>
  stopCondition (s.setPhase .stop)

theorem transmit_commutes {g : State → State} (hg : Unseen g) (vs : List Byte) : Commutes g (transmit vs) :=
  ((startCondition_commutes hg).bind fun _ =>
    ((sendOwn_commutes hg vs).bind fun _ =>
      (stopCondition_commutes hg).after fun s => hg.setPhase s .stop).after fun s => hg.setPhase s .transfer).after
    fun s => by rw [hg.setByteCnt, hg.setPhase]

/-- The first byte of a transaction is counted as any other. -/
theorem sendCommand_eq_sendData (c : Byte) {s : State} (first : s.byteCnt = 0) : sendCommand c s = sendData c s := by
  rcases sendCommand_cases c s with ⟨t, sent, eq⟩ | ⟨e, t, raised, eq⟩ <;>
    rcases sendData_cases c s with ⟨t', sent', eq'⟩ | ⟨e', t', raised', eq'⟩
  · cases sent.symm.trans sent'; rw [eq, eq', first]
  · cases sent.symm.trans raised'
  · cases raised.symm.trans sent'
  · cases raised.symm.trans raised'; rw [eq, eq']

theorem startCondition_steady (s : State) : Steady s (startCondition s) := (startCondition_straight s).steady

theorem stopCondition_steady (s : State) : Steady s (stopCondition s) := (stopCondition_straight s).steady

/-- A transaction of given bytes is their transmission and the end of the frame. -/
theorem transaction_sendOwn (cmd : Byte) (ds : List Byte) (s : State) :
    transaction cmd (sendOwn ds) s = closeFrame (transmit (cmd :: ds) s) := by
  unfold transaction transmit
  have same := (startCondition_steady ((s.setPhase .start).setByteCnt 0)).2
  cases started : startCondition ((s.setPhase .start).setByteCnt 0) with
  | raised e t => rfl
  | done a t =>
    rw [started] at same
    have first : (t.setPhase .transfer).byteCnt = 0 := same.byteCnt
    simp only [bind_done, sendOwn_cons, sendCommand_eq_sendData cmd first, bind_assoc]

/-! HOST's elements. -/

/-- `s` with the first `n` elements of `p` taken. -/
def State.consumed (s : State) (p : List Byte) (n : Nat) : State := { s with payload := p.drop n, taken := n }

theorem unseen_consumed (p : List Byte) (n : Nat) : Unseen fun s => s.consumed p n := by
  constructor <;> intros <;> rfl

/-- The elements taken when `BYTE_CNT` bytes were acknowledged, the command byte being the first: one for each data
byte that was begun (R107, D18). -/
def State.accounted (s : State) (p : List Byte) : State := s.consumed p (min s.byteCnt p.length)

/-- Everything a data byte can do to the registers it does not own: counted when acknowledged, and no more. -/
theorem sendData_steady (d : Byte) (s : State) :
    (∃ t seg, sendData d s = .done () (t.setByteCnt (s.byteCnt + 1)) ∧ History s t seg ∧ SameCommand s t)
      ∨ (∃ e t seg, sendData d s = .raised e t ∧ History s t seg ∧ SameCommand s t) := by
  obtain ⟨⟨seg, hist⟩, same⟩ := sendByte_steady d s
  rcases sendData_cases d s with ⟨t, sent, eq⟩ | ⟨e, t, raised, eq⟩
  · rw [sent] at hist same
    exact .inl ⟨t, seg, eq, hist, same⟩
  · rw [raised] at hist same
    exact .inr ⟨e, t, seg, eq, hist, same⟩

/-- The payload loop sends the translated elements as bytes of its own, and takes them on the way: `k` are taken
before, `k + 1` bytes acknowledged (R100, R107). -/
theorem sendPayload_eq (t : Translate) (p : List Byte) (es : List Byte) {k : Nat} {u : State}
    (left : p.drop k = es) (hk : k ≤ p.length) (count : u.byteCnt = k + 1) :
    sendPayload t es (u.consumed p k) = (sendOwn (es.map (translate t u)) u).map fun w => w.accounted p := by
  induction es generalizing k u with
  | nil =>
    have all : p.length ≤ k := List.drop_eq_nil_iff.1 left
    have taken : min u.byteCnt p.length = k := by omega
    rw [sendPayload_nil, List.map_nil, sendOwn_nil, map_done, State.accounted, taken]
  | cons e es ih =>
    have some_left : k < p.length := by
      by_contra none_left
      rw [List.drop_of_length_le (by omega)] at left
      cases left
    have left' : p.drop (k + 1) = es := by rw [← List.tail_drop, left, List.tail_cons]
    have take : (u.consumed p k).takeElem es = u.consumed p (k + 1) := by rw [← left']; rfl
    have same_translate : translate t (u.consumed p k) e = translate t u e :=
      translate_congr (s := u.consumed p k) (s' := u) rfl t e
    rw [sendPayload_cons, take, same_translate, List.map_cons, sendOwn_cons,
      sendData_commutes (unseen_consumed p (k + 1)) _ u]
    rcases sendData_steady (translate t u e) u with ⟨w, seg, sent, hist, same⟩ | ⟨err, w, seg, raised, hist, same⟩
    · have same_cfg : es.map (translate t u) = es.map (translate t (w.setByteCnt (u.byteCnt + 1))) :=
        List.map_congr_left fun v _ => translate_congr hist.cfg.symm t v
      rw [sent, map_done, bind_done, bind_done, same_cfg]
      exact ih left' some_left (congrArg (· + 1) count)
    · have taken : min w.byteCnt p.length = k + 1 := by rw [same.byteCnt]; omega
      rw [raised, map_raised, bind_raised, bind_raised, map_raised, State.accounted, taken]

theorem consumed_none {w : State} {p : List Byte} (payload : w.payload = p) (taken : w.taken = 0) :
    w.consumed p 0 = w := by
  rw [State.consumed, List.drop_zero, ← payload, ← taken]

/-- Nothing is taken before the first data byte. -/
theorem accounted_none {w : State} {p : List Byte} (count : w.byteCnt = 0) (payload : w.payload = p)
    (taken : w.taken = 0) : w.accounted p = w := by
  rw [State.accounted, count, Nat.zero_min, consumed_none payload taken]

theorem closeFrame_map_accounted (p : List Byte) (x : Flow Unit) :
    closeFrame (x.map fun w => w.accounted p) = (closeFrame x).accounted p := by
  cases x <;> rfl

/-- Once the elements are accounted, a stop condition accounts for no other: it acknowledges no byte. -/
theorem stopCondition_accounted (p : List Byte) (w : State) :
    stopCondition ((w.accounted p).setPhase .stop)
      = (stopCondition (w.setPhase .stop)).map fun u => u.accounted p := by
  have moved : (w.accounted p).setPhase .stop = (w.setPhase .stop).consumed p (min w.byteCnt p.length) := rfl
  have same := (stopCondition_steady (w.setPhase .stop)).2.byteCnt
  rw [moved, stopCondition_commutes (unseen_consumed p _)]
  cases stopped : stopCondition (w.setPhase .stop) with
  | done a u =>
    rw [stopped] at same
    have count : u.byteCnt = w.byteCnt := same
    rw [map_done, map_done, State.accounted, count]
  | raised e u =>
    rw [stopped] at same
    have count : u.byteCnt = w.byteCnt := same
    rw [map_raised, map_raised, State.accounted, count]

/-- A write operation is the transmission of its translated elements, with what it took accounted (R103 to R105). -/
theorem runWrite_eq (t : Translate) {s : State} (untouched : s.taken = 0) :
    runWrite t s = (closeFrame (transmit (cmdAddrByte s.cfg s.addr :: s.payload.map (translate t s)) s)).accounted
      s.payload := by
  rw [← closeFrame_map_accounted, runWrite, transaction, transmit]
  congr 1
  obtain ⟨⟨_, hist⟩, same⟩ := startCondition_steady ((s.setPhase .start).setByteCnt 0)
  cases started : startCondition ((s.setPhase .start).setByteCnt 0) with
  | raised e w =>
    rw [started] at same
    have none_taken : w.accounted s.payload = w :=
      accounted_none same.byteCnt same.payload (same.taken.trans untouched)
    rw [bind_raised, bind_raised, map_raised, none_taken]
  | done a w =>
    rw [started] at hist same
    have first : (w.setPhase .transfer).byteCnt = 0 := same.byteCnt
    simp only [bind_done, sendOwn_cons, sendCommand_eq_sendData _ first, bind_assoc]
    rcases sendData_steady (cmdAddrByte s.cfg s.addr) (w.setPhase .transfer) with
      ⟨u, _, sent, hist', same'⟩ | ⟨e, u, _, raised, -, same'⟩
    · have begun : u.payload = s.payload := same'.payload.trans same.payload
      have untaken : u.taken = 0 := same'.taken.trans (same.taken.trans untouched)
      have same_cfg : s.payload.map (translate t s) = s.payload.map (translate t (u.setByteCnt 1)) :=
        List.map_congr_left fun v _ => translate_congr (hist'.cfg.trans hist.cfg).symm t v
      have body := sendPayload_eq t s.payload s.payload (k := 0) (u := u.setByteCnt 1) rfl (Nat.zero_le _) rfl
      rw [consumed_none (w := u.setByteCnt 1) begun untaken, ← same_cfg] at body
      rw [sent, first, bind_done, bind_done, setByteCnt_payload, begun, body]
      cases sendOwn (s.payload.map (translate t s)) (u.setByteCnt 1) with
      | done a v => exact stopCondition_accounted s.payload v
      | raised e v => rfl
    · have none_taken : u.accounted s.payload = u :=
        accounted_none (same'.byteCnt.trans first) (same'.payload.trans same.payload)
          (same'.taken.trans (same.taken.trans untouched))
      rw [raised, bind_raised, bind_raised, map_raised, none_taken]

/-! Requests as transmissions. -/

/-- The code of a request (R60). -/
def requestCode : Instr → BitVec 3
  | .init _ => 0#3
  | .clear _ => 1#3
  | .writeRaw _ => 2#3
  | .writeHex _ => 3#3
  | .writeChars _ => 4#3
  | .setBrightness _ => 5#3
  | .reservedOp6 _ => 6#3
  | .reservedOp7 _ => 7#3
  | .cmdDataAutoinc | .cmdAddr _ | .cmdBrightOn _ | .data _ | .start | .sendBit _ | .sendByte _ | .stop
  | .hexDigit _ | .character _ | .bitDelay => 0#3

theorem decodeRequest_requestCode {i : Instr} {r : Request} (request : requestOf i = some r) :
    decodeRequest ((requestCode i).setWidth 8) r = .instr i := by
  cases i <;> cases request <;> rfl

/-- The state in which the operation ends whose bytes are `vs`, begun on the accepted request. -/
def performed (i : Instr) (r : Request) (vs : List Byte) (s : State) : State :=
  closeFrame (transmit vs (s.accept (requestCode i) r))

/-- How many elements an operation that ends in `u` has taken. -/
def elementsTaken (i : Instr) (r : Request) (u : State) : Nat :=
  if takesPayload i then min u.byteCnt r.payload.length else 0

/-- However a flow ends, the operand registers, what is left to do and the payload stand. -/
structure SameOperands (s t : State) : Prop where
  op : t.op = s.op
  addr : t.addr = s.addr
  level : t.level = s.level
  todo : t.todo = s.todo
  payload : t.payload = s.payload
  taken : t.taken = s.taken

theorem SameCommand.operands {s t : State} (h : SameCommand s t) : SameOperands s t :=
  ⟨h.op, h.addr, h.level, h.todo, h.payload, h.taken⟩

theorem SameOperands.refl (s : State) : SameOperands s s := (SameCommand.refl s).operands

theorem SameOperands.trans {s t u : State} (h : SameOperands s t) (k : SameOperands t u) : SameOperands s u :=
  ⟨k.op.trans h.op, k.addr.trans h.addr, k.level.trans h.level, k.todo.trans h.todo, k.payload.trans h.payload,
    k.taken.trans h.taken⟩

/-- A part of a transaction, however it ends. -/
def KeepsOperands (s : State) (x : Flow Unit) : Prop := SameOperands s x.last

theorem SameOperands.keeps {s t : State} {x : Flow Unit} (h : SameOperands s t) (hx : KeepsOperands t x) :
    KeepsOperands s x := h.trans hx

theorem sameOperands_setPhase (s : State) (p : Phase) : SameOperands s (s.setPhase p) := ⟨rfl, rfl, rfl, rfl, rfl, rfl⟩

theorem sameOperands_setByteCnt (s : State) (n : Nat) : SameOperands s (s.setByteCnt n) :=
  ⟨rfl, rfl, rfl, rfl, rfl, rfl⟩

theorem KeepsOperands.bind {s : State} {x : Flow Unit} {f : Unit → State → Flow Unit} (hx : KeepsOperands s x)
    (hf : ∀ t, KeepsOperands t (f () t)) : KeepsOperands s (x.bind f) := by
  cases x with
  | done a t => exact SameOperands.keeps hx (hf t)
  | raised e t => exact hx

theorem Steady.keepsOperands {s : State} {x : Flow Unit} (h : Steady s x) : KeepsOperands s x := h.2.operands

theorem sendOwn_keepsOperands (ds : List Byte) (s : State) : KeepsOperands s (sendOwn ds s) := by
  induction ds generalizing s with
  | nil => exact SameOperands.refl s
  | cons d ds ih =>
    have sent : KeepsOperands s (sendData d s) :=
      (sendByte_steady d s).keepsOperands.bind fun t => sameOperands_setByteCnt t _
    exact sent.bind ih

theorem transmit_keepsOperands (vs : List Byte) (s : State) : KeepsOperands s (transmit vs s) := by
  have begun : SameOperands s ((s.setPhase .start).setByteCnt 0) := ⟨rfl, rfl, rfl, rfl, rfl, rfl⟩
  refine begun.keeps ((startCondition_steady _).keepsOperands.bind fun t => ?_)
  refine (sameOperands_setPhase t .transfer).keeps ((sendOwn_keepsOperands vs _).bind fun u => ?_)
  exact (sameOperands_setPhase u .stop).keeps (stopCondition_steady _).keepsOperands

/-- The end of an operation keeps them too, and nothing is left to do. -/
theorem closeFrame_operands {s : State} {x : Flow Unit} (h : KeepsOperands s x) :
    (closeFrame x).op = s.op ∧ (closeFrame x).addr = s.addr ∧ (closeFrame x).level = s.level
      ∧ (closeFrame x).payload = s.payload ∧ (closeFrame x).taken = s.taken := by
  obtain ⟨op, addr, level, -, payload, taken⟩ := h
  cases x <;> exact ⟨op, addr, level, payload, taken⟩

theorem performed_operands (i : Instr) (r : Request) (vs : List Byte) (s : State) :
    (performed i r vs s).op = requestCode i ∧ (performed i r vs s).addr = r.addr
      ∧ (performed i r vs s).level = r.level ∧ (performed i r vs s).payload = r.payload
      ∧ (performed i r vs s).taken = 0 :=
  closeFrame_operands (transmit_keepsOperands vs (s.accept (requestCode i) r))

/-- An operation with bytes of CMD's own takes no element of HOST's. -/
theorem serve_own {i : Instr} (r : Request) {s : State} (cmd : Byte) (ds : List Byte) {run : State → State}
    (idle : s.phase = .idle) (takesNone : takesPayload i = false)
    (runs : ∀ u, u = s.accept (requestCode i) r → run u = transaction cmd (sendOwn ds) u) :
    serve (requestCode i) r run s = (performed i r (cmd :: ds) s).consumed r.payload
      (elementsTaken i r (performed i r (cmd :: ds) s)) := by
  obtain ⟨-, -, -, payload, taken⟩ := performed_operands i r (cmd :: ds) s
  have none_taken : elementsTaken i r (performed i r (cmd :: ds) s) = 0 := by
    rw [elementsTaken, takesNone, if_neg Bool.false_ne_true]
  rw [none_taken, consumed_none payload taken, serve_idle _ _ _ s idle, runs _ rfl, transaction_sendOwn, performed]

/-- A write operation takes an element for each data byte it begins. -/
theorem serve_write {i : Instr} (r : Request) {s : State} (t : Translate) (idle : s.phase = .idle)
    (takes : takesPayload i = true) :
    serve (requestCode i) r (runWrite t) s
      = (performed i r (cmdAddrByte s.cfg r.addr :: r.payload.map (translate t s)) s).consumed r.payload
        (elementsTaken i r (performed i r (cmdAddrByte s.cfg r.addr :: r.payload.map (translate t s)) s)) := by
  have same_cfg : r.payload.map (translate t (s.accept (requestCode i) r)) = r.payload.map (translate t s) :=
    List.map_congr_left fun v _ => translate_congr (accept_cfg s _ _) t v
  have eq := runWrite_eq t (s := s.accept (requestCode i) r) rfl
  rw [accept_payload, same_cfg] at eq
  rw [serve_idle _ _ _ s idle, eq, elementsTaken, if_pos takes]
  rfl

theorem cmdAddrByte_eq (c : Config) (a : Byte) : cmdAddrByte c a = 0xC0#8 ||| (a &&& 0x0F#8) := by
  rw [cmdAddrByte, assemble, cfg_opcAddr, cfg_addrMask]

theorem cmdBrightByte_eq (c : Config) (l : Byte) : cmdBrightByte c l = 0x88#8 ||| (l &&& 0x07#8) := by
  rw [cmdBrightByte, assemble, cfg_opcBrightOn, cfg_levelMask]

/-- The end of an operation is reported as its success or its error (R100, R124). -/
theorem closeFrame_answers (x : Flow Unit) : (closeFrame x).reply ≠ .notAccepted := by
  cases x <;> exact Reply.noConfusion

/-- An accepted request performs its bytes, and its elements are accounted (R101 to R107). -/
theorem exec_accepted {i : Instr} {r : Request} {s : State} {cmd : Byte} {ds : List Byte}
    (request : requestOf i = some r) (bytes : wireBytes s.cfg i = some (cmd, ds)) (idle : s.phase = .idle)
    (built : WellFormed s.cfg.hasChar i = true) :
    exec i s = .next ((performed i r (cmd :: ds) s).consumed r.payload
      (elementsTaken i r (performed i r (cmd :: ds) s))) := by
  cases i with
  | init =>
    cases request; cases bytes
    refine congrArg Host.Outcome.next (serve_own (i := .init r) r 0x40#8 [] idle rfl fun u _ => ?_)
    rw [cfg_opcDataAutoinc]
  | clear =>
    cases request; cases bytes
    refine congrArg Host.Outcome.next (serve_own (i := .clear r) r 0xC0#8 _ idle rfl fun u _ => ?_)
    rw [cmdAddrByte_eq, cfg_nPos, cfg_blank]
    rfl
  | writeRaw =>
    cases request; cases bytes
    have eq := serve_write (i := .writeRaw r) r .raw idle rfl
    rw [cmdAddrByte_eq, show translate .raw s = id from rfl, List.map_id] at eq
    exact congrArg _ eq
  | writeHex =>
    cases request; cases bytes
    have eq := serve_write (i := .writeHex r) r .hex idle rfl
    rw [cmdAddrByte_eq] at eq
    exact congrArg _ eq
  | writeChars =>
    cases request; cases bytes
    have eq := serve_write (i := .writeChars r) r .char idle rfl
    rw [cmdAddrByte_eq] at eq
    exact congrArg _ ((if_pos built).trans eq)
  | setBrightness =>
    cases request; cases bytes
    refine congrArg Host.Outcome.next (serve_own (i := .setBrightness r) r _ [] idle rfl fun u hu => ?_)
    rw [cmdBrightByte_eq, hu, accept_level]
  | reservedOp6 | reservedOp7 | cmdDataAutoinc | cmdAddr | cmdBrightOn | data | start | sendBit | sendByte
  | stop | hexDigit | character | bitDelay => cases bytes

/-- An operation's instruction is a request (R60). -/
theorem requestOf_of_wireBytes {c : Config} {i : Instr} {w : Byte × List Byte} (bytes : wireBytes c i = some w) :
    ∃ r, requestOf i = some r := by
  cases i with
  | init | clear | writeRaw | writeHex | writeChars | setBrightness | reservedOp6 | reservedOp7 => exact ⟨_, rfl⟩
  | cmdDataAutoinc | cmdAddr | cmdBrightOn | data | start | sendBit | sendByte
  | stop | hexDigit | character | bitDelay => cases bytes

/-- While an operation is in progress every request is turned away (R26, R144). -/
theorem exec_busy {i : Instr} {r : Request} (s : State) (request : requestOf i = some r) (busy : s.phase ≠ .idle) :
    exec i s = .next s.turnAway := by
  cases i with
  | init | clear | writeRaw | writeHex | setBrightness => exact congrArg _ (serve_busy _ _ _ s busy)
  | writeChars =>
    refine congrArg Host.Outcome.next ?_
    split
    · exact serve_busy _ _ _ s busy
    · rfl
  | reservedOp6 | reservedOp7 => rfl
  | cmdDataAutoinc | cmdAddr | cmdBrightOn | data | start | sendBit | sendByte
  | stop | hexDigit | character | bitDelay => cases request

/-- A request is performed, or it is turned away with no effect: while busy, for a reserved code, and for
`WRITE_CHARS` without the letter table (R26, R62, R77). -/
theorem exec_request {i : Instr} {r : Request} (s : State) (request : requestOf i = some r) :
    (∃ cmd ds, wireBytes s.cfg i = some (cmd, ds) ∧ s.phase = .idle ∧ WellFormed s.cfg.hasChar i = true)
      ∨ exec i s = .next s.turnAway := by
  by_cases idle : s.phase = .idle
  · cases i with
    | init | clear | writeRaw | writeHex | setBrightness => exact .inl ⟨_, _, rfl, idle, rfl⟩
    | writeChars =>
      cases hasChar : s.cfg.hasChar with
      | true => exact .inl ⟨_, _, rfl, idle, rfl⟩
      | false => exact .inr (exec_writeChars_refused hasChar _)
    | reservedOp6 | reservedOp7 => exact .inr rfl
    | cmdDataAutoinc | cmdAddr | cmdBrightOn | data | start | sendBit | sendByte
    | stop | hexDigit | character | bitDelay => cases request
  · exact .inr (exec_busy s request idle)

end Sys2Proof.Machine

open Sys2Proof Sys2Proof.Machine Sys2Proof.Safety

/-- Settles O34. -/
theorem busyRequestsRefused : Obligations.BusyRequestsRefused := by
  unfold Obligations.BusyRequestsRefused
  exact fun i r s request busy => exec_busy s request busy

/-- Settles O38: an accepted request is `performed`, which ends with a reply of its own. -/
theorem requestFrame : Obligations.RequestFrame := by
  unfold Obligations.RequestFrame
  intro i r s t request run
  obtain ⟨seg, hist⟩ := exec_history i s t run
  refine ⟨hist.cfg, hist.requests, hist.calls, ?_⟩
  rcases exec_request s request with ⟨cmd, ds, bytes, idle, built⟩ | refused
  · rw [exec_accepted request bytes idle built] at run
    obtain ⟨op, addr, level, -, -⟩ := performed_operands i r (cmd :: ds) s
    cases run
    refine ⟨fun notAccepted => absurd notAccepted (closeFrame_answers _), fun _ => ⟨?_, addr, level, ?_⟩⟩
    · change decodeRequest ((performed i r (cmd :: ds) s).op.setWidth 8) r = _
      rw [op, decodeRequest_requestCode request]
    · intro takesNone
      rw [elementsTaken, takesNone, if_neg Bool.false_ne_true]
      exact ⟨rfl, rfl⟩
  · rw [refused] at run
    cases run
    exact ⟨fun _ => rfl, fun accepted => absurd rfl accepted⟩

end

section
/-! What the transmission of given bytes can do, once for all answers, and what it does when its bytes are
acknowledged (42_commands.md R100; 60_exceptions.md R120 to R125). -/

namespace Sys2Proof.Machine

open Sys2Proof.Safety

/-! A line fault at one access of a stretch of events. -/

/-- From `s`, a line fault cut the events `full` at one access: `t` has what came before it and the failed attempt,
and `info` is the failure value LINES answered (the events of `CutAt`, whatever became of the registers). -/
def FaultAt (s t : State) (full : List Event) (info : Info) : Prop :=
  ∃ pre e post a, full = pre ++ e :: post ∧ attemptOf e = some a
    ∧ (∀ x ∈ pre, isCompleted x = true) ∧ History s t (pre ++ [Event.failed a])
    ∧ (s.answers[pre.countP isAccess]? = some (.failed info) ∨ s.answers.length ≤ pre.countP isAccess)

theorem CutAt.faultAt {s t : State} {full : List Event} {info : Info} (k : CutAt s t full info) :
    FaultAt s t full info := k.cut

theorem FaultAt.prepend {s t u : State} {a b : List Event} {info : Info} (h : History s t a)
    (ha : ∀ x ∈ a, isCompleted x = true) (k : FaultAt t u b info) : FaultAt s u (a ++ b) info := by
  obtain ⟨pre, e, post, at', hb, he, hp, hh, hi⟩ := k
  refine ⟨a ++ pre, e, post, at', by simp [hb], he, completed_append ha hp, by simpa using h.trans hh, ?_⟩
  rw [h.answers, List.getElem?_drop, List.length_drop] at hi
  rw [List.countP_append]
  exact hi.imp_right fun beyond => by omega

theorem FaultAt.append {s t : State} {a : List Event} {info : Info} (k : FaultAt s t a info) (b : List Event) :
    FaultAt s t (a ++ b) info := by
  obtain ⟨pre, e, post, at', ha, rest⟩ := k
  exact ⟨pre, e, post ++ b, at', by simp [ha], rest⟩

/-! The bytes of a transaction one after the other. -/

/-- From `s` to `t` the bytes of `bs` were sent and acknowledged, each after its number of high reads. -/
structure BytesSent (s t : State) (bs : List (Byte × Nat)) : Prop where
  hist : History s t (traceBytes (delayUs s.cfg) bs)
  byteCnt : t.byteCnt = s.byteCnt + bs.length
  shreg : t.shreg = bs.foldl (fun _ _ => 0#8) s.shreg
  bitCnt : t.bitCnt = bs.foldl (fun _ _ => 8#4) s.bitCnt
  pollCnt : t.pollCnt = bs.foldl (fun _ b => BitVec.ofNat 8 b.2) s.pollCnt

theorem traceBytes_append (us : Nat) (as bs : List (Byte × Nat)) :
    traceBytes us (as ++ bs) = traceBytes us as ++ traceBytes us bs := by
  simp [traceBytes]

theorem traceBytes_singleton (us : Nat) (b : Byte × Nat) : traceBytes us [b] = traceByte us b.1 b.2 := by
  simp [traceBytes]

theorem traceByte_completed (us k : Nat) (v : Byte) : ∀ e ∈ traceByte us v k, isCompleted e = true :=
  completed_append (completed_append (traceShift_completed us v) (traceHighs_completed us k)) (by simp [isCompleted])

theorem traceBytes_completed (us : Nat) (bs : List (Byte × Nat)) : ∀ e ∈ traceBytes us bs, isCompleted e = true := by
  intro e he
  simp only [traceBytes, List.mem_flatten, List.mem_map] at he
  obtain ⟨_, ⟨b, -, rfl⟩, he⟩ := he
  exact traceByte_completed us b.2 b.1 e he

theorem BytesSent.nil (s : State) : BytesSent s s [] :=
  ⟨History.refl s, rfl, rfl, rfl, rfl⟩

/-- A byte sent from `s`, then counted. -/
theorem BytesSent.one {s t : State} {v : Byte} {k : Nat} (hist : History s t (traceByte (delayUs s.cfg) v k))
    (ends : ByteEnd t k) : BytesSent s (t.setByteCnt (s.byteCnt + 1)) [(v, k)] where
  hist := by simpa [traceBytes_singleton] using hist.trans (setByteCnt_history t _).1
  byteCnt := rfl
  shreg := ends.shreg
  bitCnt := ends.bitCnt
  pollCnt := ends.pollCnt

theorem BytesSent.trans {s t u : State} {as bs : List (Byte × Nat)} (h : BytesSent s t as) (k : BytesSent t u bs) :
    BytesSent s u (as ++ bs) where
  hist := by simpa [traceBytes_append, h.hist.cfg] using h.hist.trans k.hist
  byteCnt := by rw [k.byteCnt, h.byteCnt, List.length_append, Nat.add_assoc]
  shreg := by rw [k.shreg, h.shreg, List.foldl_append]
  bitCnt := by rw [k.bitCnt, h.bitCnt, List.foldl_append]
  pollCnt := by rw [k.pollCnt, h.pollCnt, List.foldl_append]

/-- From `s` to `t` the bytes of `bs` were acknowledged and the next one, `v`, never was. -/
structure BytesTimedOut (s t : State) (bs : List (Byte × Nat)) (v : Byte) : Prop where
  hist : History s t (traceBytes (delayUs s.cfg) bs
    ++ (traceShift (delayUs s.cfg) v ++ traceHighs (delayUs s.cfg) 255))
  byteCnt : t.byteCnt = s.byteCnt + bs.length

theorem BytesTimedOut.one {s t : State} {v : Byte}
    (hist : History s t (traceShift (delayUs s.cfg) v ++ traceHighs (delayUs s.cfg) 255))
    (same : SameCommand s t) : BytesTimedOut s t [] v :=
  ⟨by rwa [show traceBytes (delayUs s.cfg) [] = [] from rfl, List.nil_append], same.byteCnt⟩

theorem BytesSent.timedOut {s t u : State} {as bs : List (Byte × Nat)} {v : Byte} (h : BytesSent s t as)
    (k : BytesTimedOut t u bs v) : BytesTimedOut s u (as ++ bs) v where
  hist := by simpa [traceBytes_append, h.hist.cfg] using h.hist.trans k.hist
  byteCnt := by rw [k.byteCnt, h.byteCnt, List.length_append, Nat.add_assoc]

theorem sendOwn_append (as bs : List Byte) (s : State) :
    sendOwn (as ++ bs) s = (sendOwn as s).bind fun _ s => sendOwn bs s := by
  induction as generalizing s with
  | nil => rfl
  | cons a as ih => simp only [List.cons_append, sendOwn_cons, bind_assoc, ih]

/-- A byte of the loop that is acknowledged, and one that is not. -/
theorem sendOwn_cons_done {v : Byte} {s t : State} (vs : List Byte) (sent : sendByte v s = .done () t)
    (same : SameCommand s t) : sendOwn (v :: vs) s = sendOwn vs (t.setByteCnt (s.byteCnt + 1)) := by
  rw [sendOwn_cons, sendData, sent, bind_done, bind_done, same.byteCnt]

theorem sendOwn_cons_raised {v : Byte} {s t : State} {e : Err} (vs : List Byte) (raised : sendByte v s = .raised e t) :
    sendOwn (v :: vs) s = .raised e t := by
  rw [sendOwn_cons, sendData, raised, bind_raised, bind_raised]

/-- Everything the bytes of a transaction can do: all acknowledged; or a line fault within one of them; or one of
them never acknowledged (R87, R100, R124). -/
theorem sendOwn_cases (vs : List Byte) (s : State) :
    (∃ bs t, sendOwn vs s = .done () t ∧ bs.map Prod.fst = vs ∧ (∀ b ∈ bs, b.2 < 255) ∧ BytesSent s t bs)
      ∨ (∃ bs info t, sendOwn vs s = .raised (.lineFault info) t ∧ bs.map Prod.fst = vs
          ∧ FaultAt s t (traceBytes (delayUs s.cfg) bs) info ∧ t.byteCnt < s.byteCnt + vs.length)
      ∨ (∃ bs v more t, sendOwn vs s = .raised .ackTimeout t ∧ bs.map Prod.fst ++ v :: more = vs
          ∧ (∀ b ∈ bs, b.2 < 255) ∧ BytesTimedOut s t bs v) := by
  induction vs generalizing s with
  | nil => exact .inl ⟨[], s, rfl, rfl, by simp, BytesSent.nil s⟩
  | cons v vs ih =>
    rcases sendByte_cases v s with ⟨k, t, hk, sent, hist, same, shreg, bitCnt, pollCnt⟩ |
      ⟨k, info, t, hk, raised, cut⟩ | ⟨t, raised, hist, same, -⟩
    · have first := BytesSent.one hist ⟨shreg, bitCnt, pollCnt⟩
      have count : (t.setByteCnt (s.byteCnt + 1)).byteCnt = s.byteCnt + 1 := rfl
      rw [sendOwn_cons_done vs sent same]
      rcases ih (t.setByteCnt (s.byteCnt + 1)) with ⟨bs, u, done, rfl, hbs, rest⟩ |
        ⟨bs, info, u, raised, rfl, fault, count'⟩ | ⟨bs, w, more, u, raised, rfl, hbs, late⟩
      · exact .inl ⟨(v, k) :: bs, u, done, rfl, List.forall_mem_cons.2 ⟨hk, hbs⟩, first.trans rest⟩
      · refine .inr (.inl ⟨(v, k) :: bs, info, u, raised, rfl, ?_, by rw [List.length_cons]; omega⟩)
        rw [first.hist.cfg] at fault
        have cut := fault.prepend first.hist (traceBytes_completed _ _)
        rwa [← traceBytes_append] at cut
      · exact .inr (.inr ⟨(v, k) :: bs, w, more, u, raised, rfl, List.forall_mem_cons.2 ⟨hk, hbs⟩,
          first.timedOut late⟩)
    · refine .inr (.inl ⟨(v, k) :: vs.map (·, 0), info, t, sendOwn_cons_raised vs raised, ?_, ?_, ?_⟩)
      · rw [List.map_cons, List.map_map]
        exact congrArg (v :: ·) (List.map_id vs)
      · exact cut.faultAt.append _
      · rw [cut.same.byteCnt, List.length_cons]
        omega
    · exact .inr (.inr ⟨[], v, vs, t, sendOwn_cons_raised vs raised, rfl, by simp, BytesTimedOut.one hist same⟩)

/-- The bytes of a transaction, all acknowledged as given (R88). -/
theorem sendOwn_acked (bs : List (Byte × Nat)) {s : State} {as rest : List Answer}
    (acked : BytesAcked (bs.map Prod.snd) as) (answers : s.answers = as ++ rest) :
    ∃ t, sendOwn (bs.map Prod.fst) s = .done () t ∧ BytesSent s t bs ∧ t.answers = rest := by
  induction bs generalizing s as with
  | nil =>
    cases acked
    exact ⟨s, rfl, BytesSent.nil s, answers⟩
  | cons b bs ih =>
    obtain ⟨v, k⟩ := b
    obtain ⟨first, later, rfl, ackedFirst, ackedLater⟩ := acked
    rw [List.append_assoc] at answers
    obtain ⟨t, sent, hist, same, ends, left⟩ := sendByte_acked v ackedFirst answers
    obtain ⟨u, done, rest', left'⟩ := ih (s := t.setByteCnt (s.byteCnt + 1)) ackedLater left
    exact ⟨u, (sendOwn_cons_done _ sent same).trans done, (BytesSent.one hist ends).trans rest', left'⟩

/-- The bytes of a transaction up to one that is never acknowledged (R86). -/
theorem sendOwn_unacked (bs : List (Byte × Nat)) (v : Byte) (more : List Byte) {s : State} {b c rest : List Answer}
    (acked : BytesAcked (bs.map Prod.snd) b) (unacked : ByteUnacked c) (answers : s.answers = b ++ (c ++ rest)) :
    ∃ t, sendOwn (bs.map Prod.fst ++ v :: more) s = .raised .ackTimeout t ∧ BytesTimedOut s t bs v
      ∧ t.answers = rest := by
  obtain ⟨t, sent, hbs, left⟩ := sendOwn_acked bs acked answers
  obtain ⟨u, raised, hist, same, -, left'⟩ := sendByte_unacked v unacked left
  refine ⟨u, by rw [sendOwn_append, sent, bind_done, sendOwn_cons_raised more raised], ?_, left'⟩
  simpa using hbs.timedOut (BytesTimedOut.one hist same)

/-! The frame around the bytes. -/

/-- From `s` to `t` a whole transaction of the bytes `bs` was transmitted. -/
structure Transmitted (s t : State) (bs : List (Byte × Nat)) : Prop where
  hist : History s t (traceTransaction (delayUs s.cfg) bs)
  byteCnt : t.byteCnt = bs.length
  shreg : t.shreg = bs.foldl (fun _ _ => 0#8) s.shreg
  bitCnt : t.bitCnt = bs.foldl (fun _ _ => 8#4) s.bitCnt
  pollCnt : t.pollCnt = bs.foldl (fun _ b => BitVec.ofNat 8 b.2) s.pollCnt

/-- From `s` to `t` a transaction was begun, the bytes of `bs` acknowledged, and the next one, `v`, never was. -/
structure TransmissionTimedOut (s t : State) (bs : List (Byte × Nat)) (v : Byte) : Prop where
  hist : History s t (traceStart (delayUs s.cfg) ++ (traceBytes (delayUs s.cfg) bs
    ++ (traceShift (delayUs s.cfg) v ++ traceHighs (delayUs s.cfg) 255)))
  byteCnt : t.byteCnt = bs.length

/-- From `s` to `t` a transaction was begun: `BYTE_CNT` is zero and its start condition was made. -/
structure Begun (s t : State) : Prop where
  hist : History s t (traceStart (delayUs s.cfg))
  byteCnt : t.byteCnt = 0
  shift : SameShift s t

/-- From `s` to `t` a transaction was ended: its stop condition was made. -/
structure Ended (s t : State) : Prop where
  hist : History s t (traceStop (delayUs s.cfg))
  byteCnt : t.byteCnt = s.byteCnt
  shift : SameShift s t

theorem begin_history (s : State) : History s ((s.setPhase .start).setByteCnt 0) [] := by
  simpa using (setPhase_history s .start).trans (setByteCnt_history _ 0).1

theorem begun_of_done {s t : State} (done : startCondition ((s.setPhase .start).setByteCnt 0) = .done () t)
    (hist : History ((s.setPhase .start).setByteCnt 0) t (traceStart (delayUs s.cfg)))
    (same : SameCommand ((s.setPhase .start).setByteCnt 0) t) : Begun s (t.setPhase .transfer) where
  hist := by simpa using ((begin_history s).trans hist).trans (setPhase_history t .transfer)
  byteCnt := same.byteCnt
  shift := by
    obtain ⟨shreg, bitCnt, pollCnt⟩ := (startCondition_still _).1 t done
    exact ⟨shreg, bitCnt, pollCnt⟩

theorem ended_of_done {s t : State} (done : stopCondition (s.setPhase .stop) = .done () t)
    (hist : History (s.setPhase .stop) t (traceStop (delayUs s.cfg))) (same : SameCommand (s.setPhase .stop) t) :
    Ended s t where
  hist := by simpa using (setPhase_history s .stop).trans hist
  byteCnt := same.byteCnt
  shift := by
    obtain ⟨shreg, bitCnt, pollCnt⟩ := (stopCondition_still _).1 t done
    exact ⟨shreg, bitCnt, pollCnt⟩

theorem startCondition_cases (s : State) :
    (∃ t, startCondition ((s.setPhase .start).setByteCnt 0) = .done () t ∧ Begun s (t.setPhase .transfer))
      ∨ (∃ info t, startCondition ((s.setPhase .start).setByteCnt 0) = .raised (.lineFault info) t
          ∧ FaultAt s t (traceStart (delayUs s.cfg)) info ∧ t.byteCnt = 0) := by
  rcases startCondition_straight ((s.setPhase .start).setByteCnt 0) with ⟨t, done, hist, same⟩ | ⟨info, t, raised, cut⟩
  · exact .inl ⟨t, done, begun_of_done done hist same⟩
  · exact .inr ⟨info, t, raised, cut.faultAt.prepend (begin_history s) (by simp), cut.same.byteCnt⟩

theorem stopCondition_cases (s : State) :
    (∃ t, stopCondition (s.setPhase .stop) = .done () t ∧ Ended s t)
      ∨ (∃ info t, stopCondition (s.setPhase .stop) = .raised (.lineFault info) t
          ∧ FaultAt s t (traceStop (delayUs s.cfg)) info ∧ t.byteCnt = s.byteCnt) := by
  rcases stopCondition_straight (s.setPhase .stop) with ⟨t, done, hist, same⟩ | ⟨info, t, raised, cut⟩
  · exact .inl ⟨t, done, ended_of_done done hist same⟩
  · exact .inr ⟨info, t, raised, cut.faultAt.prepend (setPhase_history s .stop) (by simp), cut.same.byteCnt⟩

theorem traceStart_completed (us : Nat) : ∀ e ∈ traceStart us, isCompleted e = true := by
  simp [traceStart, isCompleted]

theorem traceStop_completed (us : Nat) : ∀ e ∈ traceStop us, isCompleted e = true := by
  simp [traceStop, isCompleted]

theorem transmitted {s t u v : State} {bs : List (Byte × Nat)} (begun : Begun s t) (sent : BytesSent t u bs)
    (ended : Ended u v) : Transmitted s v bs where
  hist := by
    have := (begun.hist.trans sent.hist).trans ended.hist
    rwa [sent.hist.cfg, begun.hist.cfg] at this
  byteCnt := by rw [ended.byteCnt, sent.byteCnt, begun.byteCnt, Nat.zero_add]
  shreg := by rw [ended.shift.shreg, sent.shreg, begun.shift.shreg]
  bitCnt := by rw [ended.shift.bitCnt, sent.bitCnt, begun.shift.bitCnt]
  pollCnt := by rw [ended.shift.pollCnt, sent.pollCnt, begun.shift.pollCnt]

theorem transmissionTimedOut {s t u : State} {bs : List (Byte × Nat)} {v : Byte} (begun : Begun s t)
    (late : BytesTimedOut t u bs v) : TransmissionTimedOut s u bs v where
  hist := by
    have := begun.hist.trans late.hist
    rwa [begun.hist.cfg] at this
  byteCnt := by rw [late.byteCnt, begun.byteCnt, Nat.zero_add]

theorem exists_bytes (vs : List Byte) : ∃ bs : List (Byte × Nat), bs.map Prod.fst = vs :=
  ⟨vs.map (·, 0), by rw [List.map_map]; exact List.map_id vs⟩

/-- Everything the transmission of given bytes can do: all of its transaction; or a line fault at one of its
accesses; or a byte that is never acknowledged (R100, R124, R125). -/
theorem transmit_cases (vs : List Byte) (s : State) :
    (∃ bs t, transmit vs s = .done () t ∧ bs.map Prod.fst = vs ∧ (∀ b ∈ bs, b.2 < 255) ∧ Transmitted s t bs)
      ∨ (∃ bs info t, transmit vs s = .raised (.lineFault info) t ∧ bs.map Prod.fst = vs
          ∧ FaultAt s t (traceTransaction (delayUs s.cfg) bs) info ∧ t.byteCnt ≤ vs.length)
      ∨ (∃ bs v more t, transmit vs s = .raised .ackTimeout t ∧ bs.map Prod.fst ++ v :: more = vs
          ∧ (∀ b ∈ bs, b.2 < 255) ∧ TransmissionTimedOut s t bs v) := by
  unfold transmit
  rcases startCondition_cases s with ⟨t, done, begun⟩ | ⟨info, t, raised, fault, count⟩
  · rw [done, bind_done]
    rcases sendOwn_cases vs (t.setPhase .transfer) with ⟨bs, u, done, rfl, hbs, sent⟩ |
      ⟨bs, info, u, raised, rfl, fault, count⟩ | ⟨bs, w, more, u, raised, rfl, hbs, late⟩
    · rw [done, bind_done]
      rcases stopCondition_cases u with ⟨v, done, ended⟩ | ⟨info, v, raised, fault, count⟩
      · exact .inl ⟨bs, v, done, rfl, hbs, transmitted begun sent ended⟩
      · refine .inr (.inl ⟨bs, info, v, raised, rfl, ?_, ?_⟩)
        · have cut := fault.prepend (begun.hist.trans sent.hist)
            (completed_append (traceStart_completed _) (traceBytes_completed _ _))
          rwa [sent.hist.cfg, begun.hist.cfg] at cut
        · rw [count, sent.byteCnt, begun.byteCnt, List.length_map, Nat.zero_add]
    · rw [raised, bind_raised]
      refine .inr (.inl ⟨bs, info, u, rfl, rfl, ?_, by rw [begun.byteCnt] at count; omega⟩)
      have cut := fault.prepend begun.hist (traceStart_completed _)
      rw [begun.hist.cfg] at cut
      exact cut.append _
    · rw [raised, bind_raised]
      exact .inr (.inr ⟨bs, w, more, u, rfl, rfl, hbs, transmissionTimedOut begun late⟩)
  · rw [raised, bind_raised]
    obtain ⟨bs, hbs⟩ := exists_bytes vs
    refine .inr (.inl ⟨bs, info, t, rfl, hbs, ?_, by omega⟩)
    rw [traceTransaction, List.append_assoc]
    exact fault.append _

/-- A transmission all of whose accesses complete and whose bytes are acknowledged as given (R88). -/
theorem transmit_acked (bs : List (Byte × Nat)) {s : State} {as rest : List Answer}
    (acked : TransactionAcked (bs.map Prod.snd) as) (answers : s.answers = as ++ rest) :
    ∃ t, transmit (bs.map Prod.fst) s = .done () t ∧ Transmitted s t bs ∧ t.answers = rest := by
  obtain ⟨a, b, c, rfl, drivesStart, ackedBytes, drivesStop⟩ := acked
  rw [List.append_assoc, List.append_assoc] at answers
  obtain ⟨t, started, hist, same, left⟩ := (startCondition_straight ((s.setPhase .start).setByteCnt 0)).completes
    (show Drives 4 a from drivesStart) answers
  obtain ⟨u, sent, bytes, left'⟩ := sendOwn_acked bs (s := t.setPhase .transfer) ackedBytes left
  obtain ⟨v, stopped, hist', same', left''⟩ := (stopCondition_straight (u.setPhase .stop)).completes
    (show Drives 4 c from drivesStop) left'
  refine ⟨v, ?_, transmitted (begun_of_done started hist same) bytes (ended_of_done stopped hist' same'), left''⟩
  rw [transmit, started, bind_done, sent, bind_done, stopped]

/-- A transmission up to a byte that is never acknowledged (R86). -/
theorem transmit_unacked (bs : List (Byte × Nat)) (v : Byte) (more : List Byte) {s : State} {a b c rest : List Answer}
    (drives : Drives 4 a) (acked : BytesAcked (bs.map Prod.snd) b) (unacked : ByteUnacked c)
    (answers : s.answers = a ++ b ++ c ++ rest) :
    ∃ t, transmit (bs.map Prod.fst ++ v :: more) s = .raised .ackTimeout t ∧ TransmissionTimedOut s t bs v
      ∧ t.answers = rest := by
  simp only [List.append_assoc] at answers
  obtain ⟨t, started, hist, same, left⟩ := (startCondition_straight ((s.setPhase .start).setByteCnt 0)).completes
    (show Drives 4 a from drives) answers
  obtain ⟨u, raised, late, left'⟩ := sendOwn_unacked bs v more (s := t.setPhase .transfer) acked unacked left
  refine ⟨u, ?_, transmissionTimedOut (begun_of_done started hist same) late, left'⟩
  rw [transmit, started, bind_done, raised, bind_raised]

end Sys2Proof.Machine
end

section
/-! What an operation can do, for any answers and for acknowledged bytes (42_commands.md sections 1 to 8;
60_exceptions.md sections 1 to 3). -/

namespace Sys2Proof.Machine

open Sys2Proof.Safety

/-! The ends of an operation. -/

/-- The operation with the bytes `vs`, begun in `s`, has ended in `t` (R100, R124). -/
inductive OperationEnds (s t : State) (vs : List Byte) : Prop
  | ok (bs : List (Byte × Nat)) (bytes : bs.map Prod.fst = vs) (acked : ∀ b ∈ bs, b.2 < 255)
      (hist : History s t (traceTransaction (delayUs s.cfg) bs)) (count : t.byteCnt = vs.length)
      (result : t.result = .ok) (reply : t.reply = .ok)
  | fault (bs : List (Byte × Nat)) (info : Info) (bytes : bs.map Prod.fst = vs)
      (fault : FaultAt s t (traceTransaction (delayUs s.cfg) bs) info) (count : t.byteCnt ≤ vs.length)
      (result : t.result = .lineFault info) (reply : t.reply = .raised (.lineFault info))
  | timeout (bs : List (Byte × Nat)) (v : Byte) (more : List Byte) (bytes : bs.map Prod.fst ++ v :: more = vs)
      (acked : ∀ b ∈ bs, b.2 < 255)
      (hist : History s t (traceStart (delayUs s.cfg) ++ (traceBytes (delayUs s.cfg) bs
        ++ (traceShift (delayUs s.cfg) v ++ traceHighs (delayUs s.cfg) 255)))) (count : t.byteCnt = bs.length)
      (result : t.result = .ackTimeout) (reply : t.reply = .raised .ackTimeout)

theorem FaultAt.relabel {s t u : State} {full : List Event} {info : Info} (k : FaultAt s t full info)
    (h : ∀ seg, History s t seg → History s u seg) : FaultAt s u full info := by
  obtain ⟨pre, e, post, a, hfull, he, hp, hist, hi⟩ := k
  exact ⟨pre, e, post, a, hfull, he, hp, h _ hist, hi⟩

theorem consumed_history (s : State) (p : List Byte) (n : Nat) : History s (s.consumed p n) [] :=
  (History.refl s).relabel ⟨rfl, rfl, rfl, rfl, rfl, rfl, rfl, rfl, rfl, rfl⟩

/-- The end of the frame and the account of the elements make no event. -/
theorem closed_history {s t : State} {seg : List Event} (x : Flow Unit) (p : List Byte) (n : Nat)
    (h : History s t seg) (last : x.last = t) : History s ((closeFrame x).consumed p n) seg := by
  have closed := closeFrame_history x
  rw [last] at closed
  simpa using (h.trans closed).trans (consumed_history _ p n)

theorem closed_operationEnds (vs : List Byte) (s : State) (p : List Byte) (n : Nat) :
    OperationEnds s ((closeFrame (transmit vs s)).consumed p n) vs := by
  have moved : ∀ {t seg}, (transmit vs s).last = t → History s t seg →
      History s ((closeFrame (transmit vs s)).consumed p n) seg := fun last h => closed_history _ p n h last
  rcases transmit_cases vs s with ⟨bs, t, done, bytes, acked, all⟩ | ⟨bs, info, t, raised, bytes, fault, count⟩ |
    ⟨bs, v, more, t, raised, bytes, acked, late⟩
  · have hist := moved (by rw [done, last_done]) all.hist
    rw [done] at hist ⊢
    exact .ok bs bytes acked hist (by rw [← bytes, List.length_map]; exact all.byteCnt) rfl rfl
  · have fault' := fault.relabel fun seg h => moved (by rw [raised, last_raised]) h
    rw [raised] at fault' ⊢
    exact .fault bs info bytes fault' count rfl rfl
  · have hist := moved (by rw [raised, last_raised]) late.hist
    rw [raised] at hist ⊢
    exact .timeout bs v more bytes acked hist late.byteCnt rfl rfl

theorem OperationEnds.of_accepted {s t : State} {vs : List Byte} {op : BitVec 3} {r : Request}
    (h : OperationEnds (s.accept op r) t vs) : OperationEnds s t vs := by
  have before : ∀ {seg}, History (s.accept op r) t seg → History s t seg := fun hist =>
    (accept_history s op r).trans hist
  cases h with
  | ok bs bytes acked hist count result reply => exact .ok bs bytes acked (before hist) count result reply
  | fault bs info bytes fault count result reply =>
    exact .fault bs info bytes (FaultAt.prepend (a := []) (accept_history s op r) (by simp) fault) count result reply
  | timeout bs v more bytes acked hist count result reply =>
    exact .timeout bs v more bytes acked (before hist) count result reply

/-- What an operation leaves, apart from how it ended. -/
structure OperationLeaves (i : Instr) (r : Request) (s t : State) : Prop where
  phase : t.phase = .idle
  resultKnown : t.resultKnown = true
  todo : s.todo = [] → t.todo = []
  taken : t.taken = elementsTaken i r t
  payload : t.payload = r.payload.drop t.taken

theorem closeFrame_todo {s : State} {x : Flow Unit} (h : KeepsOperands s x) (empty : s.todo = []) :
    (closeFrame x).todo = [] := by
  cases x with
  | done a t => exact h.todo.trans empty
  | raised e t => rfl

/-- What an accepted request does (R100 to R108, R124). -/
theorem exec_operation {i : Instr} {r : Request} {s : State} {cmd : Byte} {ds : List Byte}
    (request : requestOf i = some r) (bytes : wireBytes s.cfg i = some (cmd, ds)) (idle : s.phase = .idle)
    (built : WellFormed s.cfg.hasChar i = true) :
    ∃ t, exec i s = .next t ∧ OperationEnds s t (cmd :: ds) ∧ OperationLeaves i r s t := by
  refine ⟨_, exec_accepted request bytes idle built, (closed_operationEnds _ _ _ _).of_accepted, ?_⟩
  obtain ⟨phase, resultKnown⟩ := closeFrame_ends (transmit (cmd :: ds) (s.accept (requestCode i) r))
  have keeps := transmit_keepsOperands (cmd :: ds) (s.accept (requestCode i) r)
  exact ⟨phase, resultKnown, closeFrame_todo (s := s.accept (requestCode i) r) keeps, rfl, rfl⟩

/-- The same of an operation on a state that is ready for it. -/
theorem exec_ready {i : Instr} {s t : State} {cmd : Byte} {ds : List Byte}
    (bytes : wireBytes s.cfg i = some (cmd, ds)) (ready : Ready i s) (run : exec i s = .next t) :
    OperationEnds s t (cmd :: ds) ∧ t.phase = .idle ∧ t.resultKnown = true ∧ t.todo = [] := by
  obtain ⟨idle, empty, built⟩ := ready
  obtain ⟨r, request⟩ := requestOf_of_wireBytes bytes
  obtain ⟨u, run', ends, leaves⟩ := exec_operation request bytes idle built
  cases run.symm.trans run'
  exact ⟨ends, leaves.phase, leaves.resultKnown, leaves.todo empty⟩

theorem exists_wireBytes {c : Config} {i : Instr} (h : (wireBytes c i).isSome) :
    ∃ cmd ds, wireBytes c i = some (cmd, ds) := by
  obtain ⟨⟨cmd, ds⟩, bytes⟩ := Option.isSome_iff_exists.1 h
  exact ⟨cmd, ds, bytes⟩

/-! Bytes and numbers of reads as two lists. -/

theorem zip_fst_snd (bs : List (Byte × Nat)) : (bs.map Prod.fst).zip (bs.map Prod.snd) = bs := by
  rw [← List.unzip_fst, ← List.unzip_snd, List.zip_unzip]

theorem zip_of_map_fst {bs : List (Byte × Nat)} {vs : List Byte} (bytes : bs.map Prod.fst = vs) :
    vs.zip (bs.map Prod.snd) = bs := by
  rw [← bytes, zip_fst_snd]

theorem map_fst_zip_of_le {vs : List Byte} {ks : List Nat} (h : ks.length ≤ vs.length) :
    (vs.zip ks).map Prod.fst = vs.take ks.length := by
  rw [List.zip_eq_zip_take_min, Nat.min_eq_right h, List.take_length, List.map_fst_zip (by simp)]

/-! What an operation that did not end in OK has performed. -/

/-- A transaction up to the rise of DIO that makes its stop condition. -/
def traceOpen (us : Nat) (bs : List (Byte × Nat)) : List Event :=
  traceStart us ++ traceBytes us bs ++ [.clkSet false, .dioSet false, .clkSet true, .delay us]

theorem traceTransaction_eq (us : Nat) (bs : List (Byte × Nat)) :
    traceTransaction us bs = traceOpen us bs ++ [.dioSet true, .delay us] := by
  simp [traceTransaction, traceOpen, traceStop]

theorem traceTransaction_completed (us : Nat) (bs : List (Byte × Nat)) :
    ∀ e ∈ traceTransaction us bs, isCompleted e = true :=
  completed_append (completed_append (traceStart_completed us) (traceBytes_completed us bs)) (traceStop_completed us)

theorem filter_completed {es : List Event} (h : ∀ e ∈ es, isCompleted e = true) : es.filter isCompleted = es :=
  List.filter_eq_self.2 h

/-- The last access of a transaction is the rise of DIO in its stop condition. -/
theorem prefix_traceOpen {us : Nat} {bs : List (Byte × Nat)} {pre post : List Event} {e : Event} {a : Access}
    (full : traceTransaction us bs = pre ++ e :: post) (access : attemptOf e = some a) : pre <+: traceOpen us bs := by
  rw [traceTransaction_eq] at full
  rcases List.append_eq_append_iff.1 full with ⟨beyond, rfl, tail⟩ | ⟨within, eq, -⟩
  · match beyond, tail with
    | [], _ => simp
    | [_], tail => cases tail; cases access
    | _ :: _ :: _, tail => simp at tail
  · exact ⟨within, eq.symm⟩

/-- An operation that did not end in OK completed a beginning of its open transaction: it never came to the stop
condition. -/
theorem OperationEnds.open {s t : State} {vs : List Byte} (h : OperationEnds s t vs) (notOk : t.result ≠ .ok) :
    ∃ bs seg, bs.map Prod.fst = vs ∧ History s t seg ∧ seg.filter isCompleted <+: traceOpen (delayUs s.cfg) bs := by
  cases h with
  | ok _ _ _ _ _ result => exact absurd result notOk
  | fault bs info bytes fault =>
    obtain ⟨pre, e, post, a, full, access, completed, hist, -⟩ := fault
    refine ⟨bs, _, bytes, hist, ?_⟩
    rw [List.filter_append, filter_completed completed, show [Event.failed a].filter isCompleted = [] from rfl,
      List.append_nil]
    exact prefix_traceOpen full access
  | timeout bs v more bytes acked hist =>
    obtain ⟨unsent, hunsent⟩ := exists_bytes more
    refine ⟨bs ++ (v, 255) :: unsent, _, by rw [← bytes, ← hunsent]; simp, hist, ?_⟩
    rw [filter_completed (completed_append (traceStart_completed _) (completed_append (traceBytes_completed _ bs)
      (completed_append (traceShift_completed _ v) (traceHighs_completed _ 255))))]
    refine ⟨[Event.dioRead false] ++ traceBytes (delayUs s.cfg) unsent
      ++ [.clkSet false, .dioSet false, .clkSet true, .delay (delayUs s.cfg)], ?_⟩
    have late : traceBytes (delayUs s.cfg) ((v, 255) :: unsent)
      = traceByte (delayUs s.cfg) v 255 ++ traceBytes (delayUs s.cfg) unsent := rfl
    rw [traceOpen, traceBytes_append, late, traceByte]
    simp only [List.append_assoc]

theorem History.unique {s t : State} {seg seg' : List Event} (h : History s t seg) (h' : History s t seg') :
    seg = seg' :=
  List.append_cancel_left (h.events.symm.trans h'.events)

/-- The events of an operation that ended in OK are a whole transaction. -/
theorem OperationEnds.ok_events {s t : State} {vs : List Byte} (h : OperationEnds s t vs) (result : t.result = .ok) :
    ∃ bs, bs.map Prod.fst = vs ∧ (∀ b ∈ bs, b.2 < 255) ∧ History s t (traceTransaction (delayUs s.cfg) bs)
      ∧ t.byteCnt = vs.length := by
  cases h with
  | ok bs bytes acked hist count => exact ⟨bs, bytes, acked, hist, count⟩
  | fault _ _ _ _ _ result' | timeout _ _ _ _ _ _ _ result' => cases result.symm.trans result'

/-- The last events of an operation that timed out are the 255 high reads (R86). -/
theorem OperationEnds.timeout_events {s t : State} {vs : List Byte} {seg : List Event} (h : OperationEnds s t vs)
    (hist : History s t seg) (result : t.result = .ackTimeout) :
    (∀ e ∈ seg, isCompleted e = true)
      ∧ ∃ bs v more, bs.map Prod.fst ++ v :: more = vs
        ∧ seg = traceStart (delayUs s.cfg) ++ (traceBytes (delayUs s.cfg) bs
          ++ (traceShift (delayUs s.cfg) v ++ traceHighs (delayUs s.cfg) 255)) := by
  cases h with
  | timeout bs v more bytes acked hist' =>
    refine ⟨?_, bs, v, more, bytes, hist.unique hist'⟩
    rw [hist.unique hist']
    exact completed_append (traceStart_completed _) (completed_append (traceBytes_completed _ bs)
      (completed_append (traceShift_completed _ v) (traceHighs_completed _ 255)))
  | ok _ _ _ _ _ result' | fault _ _ _ _ _ result' => cases result.symm.trans result'

/-- The last event of an operation that ended in a line fault is the access that failed (R122). -/
theorem OperationEnds.fault_events {s t : State} {vs : List Byte} {seg : List Event} {info : Info}
    (h : OperationEnds s t vs) (hist : History s t seg) (result : t.result = .lineFault info) :
    ∃ pre a, seg = pre ++ [Event.failed a] ∧ ∀ e ∈ pre, isCompleted e = true := by
  cases h with
  | fault bs info' bytes fault =>
    obtain ⟨pre, e, post, a, -, -, completed, hist', -⟩ := fault
    exact ⟨pre, a, hist.unique hist', completed⟩
  | ok _ _ _ _ _ result' | timeout _ _ _ _ _ _ _ result' => cases result.symm.trans result'

/-- Whatever its end, an operation has performed a beginning of its transaction, and all of it when it ended in OK. -/
theorem OperationEnds.beginning {s t : State} {vs : List Byte} (h : OperationEnds s t vs) :
    ∃ bs seg, bs.map Prod.fst = vs ∧ History s t seg
      ∧ seg.filter isCompleted <+: traceTransaction (delayUs s.cfg) bs
      ∧ (t.result = .ok → seg = traceTransaction (delayUs s.cfg) bs ∧ ∀ b ∈ bs, b.2 < 255) := by
  by_cases ok : t.result = .ok
  · obtain ⟨bs, sent, acked, hist, -⟩ := h.ok_events ok
    refine ⟨bs, _, sent, hist, ?_, fun _ => ⟨rfl, acked⟩⟩
    rw [filter_completed (traceTransaction_completed _ bs)]
  · obtain ⟨bs, seg, sent, hist, beginning⟩ := h.open ok
    refine ⟨bs, seg, sent, hist, ?_, fun ok' => absurd ok' ok⟩
    rw [traceTransaction_eq]
    exact beginning.trans (List.prefix_append _ _)

theorem OperationEnds.byteCnt_le {s t : State} {vs : List Byte} (h : OperationEnds s t vs) :
    t.byteCnt ≤ vs.length := by
  cases h with
  | ok _ _ _ _ count => exact count.le
  | fault _ _ _ _ count => exact count
  | timeout bs v more bytes _ _ count =>
    rw [count, ← bytes, List.length_append, List.length_map]
    exact Nat.le_add_right _ _

/-! Acknowledged operations. -/

theorem countP_isAccess_traceBytes (us : Nat) (bs : List (Byte × Nat)) {as : List Answer}
    (acked : BytesAcked (bs.map Prod.snd) as) : (traceBytes us bs).countP isAccess = as.length := by
  induction bs generalizing as with
  | nil => cases acked; rfl
  | cons b bs ih =>
    obtain ⟨first, later, rfl, ackedFirst, ackedLater⟩ := acked
    rw [← List.singleton_append, traceBytes_append, traceBytes_singleton, List.countP_append,
      countP_isAccess_traceByte, ih ackedLater, List.length_append, byteAcked_length ackedFirst]

theorem countP_isAccess_traceTransaction (us : Nat) (bs : List (Byte × Nat)) {as : List Answer}
    (acked : TransactionAcked (bs.map Prod.snd) as) : (traceTransaction us bs).countP isAccess = as.length := by
  obtain ⟨a, b, c, rfl, ⟨start, -⟩, acked, ⟨stop, -⟩⟩ := acked
  rw [traceTransaction, List.countP_append, List.countP_append, countP_isAccess_traceBytes us bs acked,
    List.length_append, List.length_append, start, stop]
  rfl

/-- The stop condition leaves both lines high (R84). -/
theorem foldl_clkAfter_traceTransaction (us : Nat) (bs : List (Byte × Nat)) (x : Option Level) :
    (traceTransaction us bs).foldl clkAfter x = some true := by
  rw [traceTransaction_eq, traceOpen, List.foldl_append, List.foldl_append]
  rfl

theorem foldl_dioAfter_traceTransaction (us : Nat) (bs : List (Byte × Nat)) (x : Option Level) :
    (traceTransaction us bs).foldl dioAfter x = some true := by
  rw [traceTransaction_eq, List.foldl_append]
  rfl

/-- What the last byte leaves in a register does not depend on what was there before it. -/
theorem foldl_last {α β : Type} (f : β → α) (x : α) (d : β) {bs : List β} (some_byte : bs ≠ []) :
    bs.foldl (fun _ b => f b) x = f (bs.getLastD d) := by
  obtain ⟨init, last, rfl⟩ := (List.eq_nil_or_concat' bs).resolve_left some_byte
  simp

/-- How many elements an operation takes that sends them all. -/
def allElements (i : Instr) (r : Request) : Nat := if takesPayload i then r.payload.length else 0

/-- A write operation has a data byte for each element. -/
theorem length_of_takesPayload {c : Config} {i : Instr} {r : Request} {cmd : Byte} {ds : List Byte}
    (takes : takesPayload i = true) (request : requestOf i = some r) (bytes : wireBytes c i = some (cmd, ds)) :
    ds.length = r.payload.length := by
  cases i with
  | writeRaw => cases request; cases bytes; rfl
  | writeHex | writeChars => cases request; cases bytes; exact List.length_map _
  | init | clear | setBrightness | reservedOp6 | reservedOp7 | cmdDataAutoinc | cmdAddr | cmdBrightOn | data
  | start | sendBit | sendByte | stop | hexDigit | character | bitDelay => cases takes

/-- The state at the end of a whole transmission, every register written out. -/
theorem Transmitted.complete_eq {s t : State} {op : BitVec 3} {r : Request} {bs : List (Byte × Nat)}
    {as rest : List Answer} (all : Transmitted (s.accept op r) t bs) (same : SameOperands (s.accept op r) t)
    (some_byte : bs ≠ []) (acked : TransactionAcked (bs.map Prod.snd) as) (left : t.answers = rest)
    (p : List Byte) (n : Nat) :
    t.complete.consumed p n = completed s op r bs (p.drop n) n as rest := by
  have state := all.hist.eq_of_latches (foldl_clkAfter_traceTransaction ..) (foldl_dioAfter_traceTransaction ..)
  have shreg := all.shreg.trans (foldl_last (fun _ => 0#8) _ (0#8, 0) some_byte)
  have bitCnt := all.bitCnt.trans (foldl_last (fun _ => 8#4) _ (0#8, 0) some_byte)
  have pollCnt := all.pollCnt.trans (foldl_last (fun b : Byte × Nat => BitVec.ofNat 8 b.2) _ (0#8, 0) some_byte)
  rw [← all.hist.answers, left, countP_isAccess_traceTransaction _ bs acked, same.op, same.addr, same.level,
    same.todo, all.byteCnt, shreg, bitCnt, pollCnt] at state
  rw [state]
  rfl

/-- An operation whose bytes are acknowledged as given: its whole next state (R16 to R20, R26, R100 to R108). -/
theorem exec_completes {i : Instr} {r : Request} {s : State} {cmd : Byte} {ds : List Byte}
    {bs : List (Byte × Nat)} {as rest : List Answer} (request : requestOf i = some r)
    (bytes : wireBytes s.cfg i = some (cmd, ds)) (ready : Ready i s) (sent : bs.map Prod.fst = cmd :: ds)
    (acked : TransactionAcked (bs.map Prod.snd) as) (answers : s.answers = as ++ rest) :
    exec i s = .next (completed s (requestCode i) r bs (r.payload.drop (allElements i r)) (allElements i r) as rest) := by
  obtain ⟨idle, -, built⟩ := ready
  obtain ⟨t, done, all, left⟩ := transmit_acked bs (s := s.accept (requestCode i) r) acked answers
  have keeps := transmit_keepsOperands (bs.map Prod.fst) (s.accept (requestCode i) r)
  rw [done] at keeps
  have taken : elementsTaken i r t.complete = allElements i r := by
    unfold elementsTaken allElements
    split
    · next takes =>
      have total := congrArg List.length sent
      rw [List.length_map, List.length_cons, length_of_takesPayload takes request bytes] at total
      rw [complete_byteCnt, all.byteCnt, total, Nat.min_eq_right (Nat.le_succ _)]
    · rfl
  rw [exec_accepted request bytes idle built, performed, ← sent, done, closeFrame_done, taken,
    all.complete_eq keeps (by rintro rfl; cases sent) acked left]

/-- A command byte and data bytes with their numbers of high reads, as two lists. -/
theorem unzip_cons_zip (cmd : Byte) (k : Nat) {ds : List Byte} {ks : List Nat} (lengths : ks.length = ds.length) :
    ((cmd, k) :: ds.zip ks).map Prod.fst = cmd :: ds ∧ ((cmd, k) :: ds.zip ks).map Prod.snd = k :: ks := by
  rw [List.map_cons, List.map_cons, List.map_fst_zip lengths.ge, List.map_snd_zip lengths.le]
  exact ⟨rfl, rfl⟩

/-- A write operation whose bytes are acknowledged: all elements taken. -/
theorem exec_write_completes {i : Instr} {r : Request} {s : State} {cmd : Byte} {ds : List Byte} {k : Nat}
    {ks : List Nat} {as rest : List Answer} (takes : takesPayload i = true) (request : requestOf i = some r)
    (bytes : wireBytes s.cfg i = some (cmd, ds)) (ready : Ready i s) (lengths : ks.length = r.payload.length)
    (acked : TransactionAcked (k :: ks) as) (answers : s.answers = as ++ rest) :
    exec i s = .next (completed s (requestCode i) r ((cmd, k) :: ds.zip ks) [] r.payload.length as rest) := by
  obtain ⟨sent, reads⟩ := unzip_cons_zip cmd k (lengths.trans (length_of_takesPayload takes request bytes).symm)
  have run := exec_completes request bytes ready sent (reads.symm ▸ acked) answers
  rwa [allElements, if_pos takes, List.drop_length] at run

end Sys2Proof.Machine

open Sys2Proof Sys2Proof.Machine Sys2Proof.Safety

/-- Settles O27. -/
theorem initCompletes : Obligations.InitCompletes := by
  unfold Obligations.InitCompletes
  intro r s k as rest ready acked answers
  exact exec_completes rfl rfl ready rfl acked answers

/-- Settles O28. -/
theorem clearCompletes : Obligations.ClearCompletes := by
  unfold Obligations.ClearCompletes
  intro r s k k0 k1 k2 k3 as rest ready acked answers
  exact exec_completes rfl rfl ready rfl acked answers

/-- Settles O29. -/
theorem writeRawCompletes : Obligations.WriteRawCompletes := by
  unfold Obligations.WriteRawCompletes
  intro r s k ks as rest ready lengths acked answers
  exact exec_write_completes rfl rfl rfl ready lengths acked answers

/-- Settles O30: the pattern of an element is the ROM entry of its low four bits. -/
theorem writeHexCompletes : Obligations.WriteHexCompletes := by
  unfold Obligations.WriteHexCompletes
  intro r s k ks as rest ready lengths acked answers
  simp only [← hexPattern_eq_getD]
  exact exec_write_completes rfl rfl rfl ready lengths acked answers

/-- Settles O31: the patterns `CHARACTER` returns are those the operation sends. -/
theorem writeCharsCompletes : Obligations.WriteCharsCompletes := by
  unfold Obligations.WriteCharsCompletes
  intro r s k ks ps as rest ready lengths lengths' patterns acked answers
  have hasChar : s.cfg.hasChar = true := ready.2.2
  have sent : ps = r.payload.map (charPattern s.cfg) := by
    refine List.ext_getElem (by rw [lengths', List.length_map]) fun j hj hj' => ?_
    have hj'' : j < r.payload.length := lengths' ▸ hj
    have run := patterns j r.payload[j] ps[j] (List.getElem?_eq_getElem hj'') (List.getElem?_eq_getElem hj)
    rw [exec_character hasChar, Host.Outcome.next.injEq] at run
    rw [List.getElem_map]
    exact (Reply.pattern.inj (congrArg State.reply run)).symm
  rw [sent]
  exact exec_write_completes rfl rfl rfl ready lengths acked answers

/-- Settles O32. -/
theorem setBrightnessCompletes : Obligations.SetBrightnessCompletes := by
  unfold Obligations.SetBrightnessCompletes
  intro r s k as rest ready acked answers
  exact exec_completes rfl rfl ready rfl acked answers

/-- Settles O35: the bytes of any operands are acknowledged as any others. -/
theorem noOperandIsAnError : Obligations.NoOperandIsAnError := by
  unfold Obligations.NoOperandIsAnError
  intro i s cmd ds ks as rest bytes ready lengths acked answers
  obtain ⟨r, request⟩ := requestOf_of_wireBytes bytes
  have sent : ((cmd :: ds).zip ks).map Prod.fst = cmd :: ds := List.map_fst_zip lengths.ge
  have reads : ((cmd :: ds).zip ks).map Prod.snd = ks := List.map_snd_zip lengths.le
  exact ⟨_, exec_completes request bytes ready sent (reads.symm ▸ acked) answers, rfl, rfl, rfl⟩

/-- Settles O36: what an operation that did not end in OK completed is a beginning of its open transaction. -/
theorem operationIsBeginningOfTransaction : Obligations.OperationIsBeginningOfTransaction := by
  unfold Obligations.OperationIsBeginningOfTransaction
  intro i s cmd ds bytes ready
  obtain ⟨r, request⟩ := requestOf_of_wireBytes bytes
  obtain ⟨idle, empty, built⟩ := ready
  obtain ⟨t, run, ends, leaves⟩ := exec_operation request bytes idle built
  obtain ⟨bs, seg, sent, hist, beginning, whole⟩ := ends.beginning
  rw [← zip_of_map_fst sent] at beginning whole
  refine ⟨t, seg, bs.map Prod.snd, run, hist.events, leaves.phase, leaves.todo empty, leaves.resultKnown, ?_,
    beginning, fun ok => ⟨(whole ok).1, ?_⟩, fun timeout => ?_, fun info fault => ends.fault_events hist fault⟩
  · rw [List.length_map, ← List.length_cons (a := cmd), ← sent, List.length_map]
  · intro k hk
    obtain ⟨b, hb, rfl⟩ := List.mem_map.1 hk
    exact (whole ok).2 b (by rwa [zip_of_map_fst sent])
  · obtain ⟨completed, bs', v, more, -, eq⟩ := ends.timeout_events hist timeout
    refine ⟨completed, traceStart (delayUs s.cfg) ++ (traceBytes (delayUs s.cfg) bs' ++ traceShift (delayUs s.cfg) v), ?_⟩
    simp only [eq, List.append_assoc]

/-- Settles O37: `transmit_unacked`, and the abort that follows. -/
theorem unacknowledgedByteAborts : Obligations.UnacknowledgedByteAborts := by
  unfold Obligations.UnacknowledgedByteAborts
  intro i r s cmd v ds ks a b c rest bytes request ready next drives acked unacked answers
  obtain ⟨idle, -, built⟩ := ready
  obtain ⟨within, rfl⟩ := List.getElem?_eq_some_iff.1 next
  have sent : cmd :: ds = ((cmd :: ds).zip ks).map Prod.fst ++ (cmd :: ds)[ks.length] :: (cmd :: ds).drop (ks.length + 1) := by
    rw [map_fst_zip_of_le within.le, List.getElem_cons_drop within, List.take_append_drop]
  have reads : ((cmd :: ds).zip ks).map Prod.snd = ks := List.map_snd_zip within.le
  have length : ((cmd :: ds).zip ks).length = ks.length := by rw [← List.length_map (f := Prod.snd), reads]
  obtain ⟨t, raised, late, left⟩ := transmit_unacked ((cmd :: ds).zip ks) _ _ (s := s.accept (requestCode i) r)
    drives (reads.symm ▸ acked) unacked answers
  rw [← sent] at raised
  have run := exec_accepted request bytes idle built
  rw [performed, raised, closeFrame_raised] at run
  have taken : elementsTaken i r (t.abort .ackTimeout) = if takesPayload i then ks.length else 0 := by
    unfold elementsTaken
    split
    · next takes =>
      rw [abort_byteCnt, late.byteCnt, length, ← length_of_takesPayload takes request bytes]
      exact Nat.min_eq_left (Nat.le_of_lt_succ within)
    · rfl
  obtain ⟨clkKnown, clkO⟩ := latchView_eq_some (c := true) (late.hist.clk.trans (by simp))
  obtain ⟨dioKnown, dioO⟩ := latchView_eq_some (c := true) (late.hist.dio.trans (by simp))
  refine ⟨_, run, ?_, rfl, rfl, rfl, rfl, clkO, clkKnown, dioO, dioKnown, late.byteCnt.trans length, left, taken,
    congrArg r.payload.drop taken⟩
  refine late.hist.events.trans ?_
  simp only [accept_events, accept_cfg, List.append_assoc]

/-- Settles O39: an element is taken for each data byte begun, and `BYTE_CNT` counts the bytes acknowledged. -/
theorem payloadConsumption : Obligations.PayloadConsumption := by
  unfold Obligations.PayloadConsumption
  intro i r s takes request ready
  obtain ⟨idle, empty, built⟩ := ready
  obtain ⟨cmd, ds, bytes⟩ : ∃ cmd ds, wireBytes s.cfg i = some (cmd, ds) := by
    cases i with
    | writeRaw | writeHex | writeChars => exact ⟨_, _, rfl⟩
    | init | clear | setBrightness | reservedOp6 | reservedOp7 | cmdDataAutoinc | cmdAddr | cmdBrightOn | data
    | start | sendBit | sendByte | stop | hexDigit | character | bitDelay => cases takes
  obtain ⟨t, run, ends, leaves⟩ := exec_operation request bytes idle built
  have lengths := length_of_takesPayload takes request bytes
  have taken : t.taken = min t.byteCnt r.payload.length := by rw [leaves.taken, elementsTaken, if_pos takes]
  have atMost := ends.byteCnt_le
  rw [List.length_cons, lengths] at atMost
  refine ⟨t, run, by omega, leaves.payload, fun ok => ?_, by omega, by omega, atMost⟩
  obtain ⟨-, -, -, -, all⟩ := ends.ok_events ok
  rw [List.length_cons, lengths] at all
  omega

end

section
/-! Equal runs: changes of a state that an operation does not see (30_encoding.md section 7; 40_encoder.md R77;
42_commands.md R102 to R105). -/

namespace Sys2Proof.Machine

open Sys2Proof.Safety

/-! Changes that pass through the end of an instruction too. -/

/-- What `g` changes is seen neither by XPORT nor by the end of an instruction. -/
structure Invisible (g : State → State) : Prop extends Unseen g where
  phase : ∀ s, (g s).phase = s.phase
  setReply : ∀ s r, g (s.setReply r) = (g s).setReply r
  complete : ∀ s, g s.complete = (g s).complete
  abort : ∀ s e, g (s.abort e) = (g s).abort e

section
variable {g : State → State} (hg : Invisible g)
include hg

theorem closeFrame_map (x : Flow Unit) : closeFrame (x.map g) = g (closeFrame x) := by
  cases x with
  | done a s => exact (hg.complete s).symm
  | raised e s => exact (hg.abort s e).symm

theorem settle_map (x : Flow Unit) : settle (x.map g) = g (settle x) := by
  cases x with
  | done a s => exact (hg.setReply s .ok).symm
  | raised e s =>
    rw [map_raised, settle_raised, settle_raised]
    by_cases idle : s.phase = .idle
    · rw [raise_idle s e idle, raise_idle (g s) e ((hg.phase s).trans idle), hg.setReply]
    · rw [raise_busy s e idle, raise_busy (g s) e (hg.phase s ▸ idle), hg.abort]

theorem Commutes.settle {x : State → Flow Unit} (h : Commutes g x) (s : State) :
    settle (x (g s)) = g (settle (x s)) := by
  rw [h s, settle_map hg]

/-- Two accepted requests with the same bytes end in the same state but for what tells their acceptances apart. -/
theorem performed_invisible {i j : Instr} {r q : Request} {s u : State} (vs : List Byte)
    (accepted : s.accept (requestCode i) r = g (u.accept (requestCode j) q)) :
    performed i r vs s = g (performed j q vs u) := by
  rw [performed, accepted, transmit_commutes hg.toUnseen, closeFrame_map hg, performed]

end

/-! The operand registers and the payload. -/

/-- `s` with the given operands and payload. -/
def State.withOperands (op : BitVec 3) (addr : Byte) (payload : List Byte) (s : State) : State :=
  { s with op := op, addr := addr, payload := payload }

theorem invisible_withOperands (op : BitVec 3) (addr : Byte) (payload : List Byte) :
    Invisible (State.withOperands op addr payload) := by
  constructor
  · constructor <;> intros <;> rfl
  all_goals intros; rfl

/-- Two requests with the same bytes and level leave the same state `p`, but for the operand registers and what each
took of its payload. -/
theorem exec_same_bytes {i j : Instr} {r q : Request} {s : State} {cmd : Byte} {ds : List Byte}
    (request : requestOf i = some r) (request' : requestOf j = some q) (bytes : wireBytes s.cfg i = some (cmd, ds))
    (bytes' : wireBytes s.cfg j = some (cmd, ds)) (idle : s.phase = .idle) (built : WellFormed s.cfg.hasChar i = true)
    (built' : WellFormed s.cfg.hasChar j = true) (level : q.level = r.level) :
    ∃ p : State,
      exec i s = .next ((p.withOperands (requestCode i) r.addr r.payload).consumed r.payload (elementsTaken i r p))
        ∧ exec j s = .next (p.consumed q.payload (elementsTaken j q p)) ∧ p.addr = q.addr := by
  have accepted : s.accept (requestCode i) r
      = (s.accept (requestCode j) q).withOperands (requestCode i) r.addr r.payload := by
    simp only [State.accept, State.withOperands, level]
  have same := performed_invisible (invisible_withOperands _ _ _) (cmd :: ds) accepted
  have run := exec_accepted request bytes idle built
  rw [same] at run
  exact ⟨_, run, exec_accepted request' bytes' idle built', (performed_operands j q _ s).2.1⟩

/-- Two write operations that send the same bytes to the same address leave the same state but for `OP` and the
elements left. -/
theorem exec_translated {i j : Instr} {r q : Request} {s : State} {cmd : Byte} {ds : List Byte}
    (request : requestOf i = some r) (request' : requestOf j = some q) (bytes : wireBytes s.cfg i = some (cmd, ds))
    (bytes' : wireBytes s.cfg j = some (cmd, ds)) (built : WellFormed s.cfg.hasChar i = true)
    (built' : WellFormed s.cfg.hasChar j = true) (level : q.level = r.level) (addr : q.addr = r.addr)
    (takes : takesPayload i = true) (takes' : takesPayload j = true) :
    ∃ t t', exec i s = .next t ∧ exec j s = .next t' ∧ { t' with op := t.op, payload := t.payload } = t := by
  by_cases idle : s.phase = .idle
  · obtain ⟨p, run, run', addr'⟩ := exec_same_bytes request request' bytes bytes' idle built built' level
    have taken : elementsTaken j q p = elementsTaken i r p := by
      rw [elementsTaken, elementsTaken, if_pos takes, if_pos takes', ← length_of_takesPayload takes request bytes,
        ← length_of_takesPayload takes' request' bytes']
    rw [taken] at run'
    rw [← addr, ← addr'] at run
    exact ⟨_, _, run, run', rfl⟩
  · exact ⟨_, _, exec_busy s request idle, exec_busy s request' idle, rfl⟩

/-! The letter table. -/

/-- `s` on a block built with or without a letter table (R77). -/
def State.withLetters (hasChar : Bool) (rom : Vector Byte 26) (s : State) : State :=
  { s with cfg := { s.cfg with hasChar := hasChar, letterRom := rom } }

theorem invisible_withLetters (b : Bool) (rom : Vector Byte 26) : Invisible (State.withLetters b rom) := by
  constructor
  · constructor <;> intros <;> rfl
  all_goals intros; rfl

/-- An instruction that exists without the letter table exists with it. -/
theorem wellFormed_of_without {i : Instr} (h : WellFormed false i = true) (b : Bool) : WellFormed b i = true := by
  cases i with
  | writeChars | character => cases h
  | cmdDataAutoinc | cmdAddr | cmdBrightOn | data | init | clear | writeRaw | writeHex | setBrightness | reservedOp6
  | reservedOp7 | start | sendBit | sendByte | stop | hexDigit | bitDelay => rfl

/-- Only the bytes of `WRITE_CHARS` are read from the letter table (R105). -/
theorem wireBytes_withLetters {i : Instr} (h : WellFormed false i = true) (c : Config) (b : Bool)
    (rom : Vector Byte 26) : wireBytes { c with hasChar := b, letterRom := rom } i = wireBytes c i := by
  cases i with
  | writeChars | character => cases h
  | cmdDataAutoinc | cmdAddr | cmdBrightOn | data | init | clear | writeRaw | writeHex | setBrightness | reservedOp6
  | reservedOp7 | start | sendBit | sendByte | stop | hexDigit | bitDelay => rfl

theorem exec_withLetters_operation {i : Instr} {r : Request} {cmd : Byte} {ds : List Byte} {s t : State}
    (request : requestOf i = some r) (bytes : wireBytes s.cfg i = some (cmd, ds)) (h : WellFormed false i = true)
    (b : Bool) (rom : Vector Byte 26) (run : exec i s = .next t) :
    exec i (s.withLetters b rom) = .next (t.withLetters b rom) := by
  by_cases idle : s.phase = .idle
  · have bytes' : wireBytes (s.withLetters b rom).cfg i = some (cmd, ds) := (wireBytes_withLetters h _ b rom).trans bytes
    have same := performed_invisible (i := i) (j := i) (r := r) (q := r) (s := s.withLetters b rom) (u := s)
      (invisible_withLetters b rom) (cmd :: ds) rfl
    rw [exec_accepted request bytes idle (wellFormed_of_without h _)] at run
    rw [exec_accepted request bytes' idle (wellFormed_of_without h _), same]
    cases run
    rfl
  · rw [exec_busy s request idle] at run
    cases run
    exact exec_busy _ request idle

/-- Every instruction that exists without the letter table does the same with any (R77). -/
theorem exec_withLetters {i : Instr} (h : WellFormed false i = true) (b : Bool) (rom : Vector Byte 26) {s t : State}
    (run : exec i s = .next t) : exec i (s.withLetters b rom) = .next (t.withLetters b rom) := by
  have hg := invisible_withLetters b rom
  cases i with
  | init | clear | writeRaw | writeHex | setBrightness => exact exec_withLetters_operation rfl rfl h b rom run
  | reservedOp6 | reservedOp7 => cases run; rfl
  | writeChars | character => cases h
  | cmdDataAutoinc | cmdAddr | cmdBrightOn =>
    cases run
    exact congrArg _ ((sendCommand_commutes hg.toUnseen _).settle hg s)
  | data => cases run; exact congrArg _ ((sendData_commutes hg.toUnseen _).settle hg s)
  | start => cases run; exact congrArg _ ((startCondition_commutes hg.toUnseen).settle hg s)
  | sendBit => cases run; exact congrArg _ ((sendBit_commutes hg.toUnseen _).settle hg s)
  | sendByte => cases run; exact congrArg _ ((sendByte_commutes hg.toUnseen _).settle hg s)
  | stop => cases run; exact congrArg _ ((stopCondition_commutes hg.toUnseen).settle hg s)
  | hexDigit | bitDelay => cases run; rfl

end Sys2Proof.Machine

open Sys2Proof Sys2Proof.Machine Sys2Proof.Safety

/-- Settles O40: both perform the same bytes, and an acceptance differs only in `OP`, `ADDR` and the payload. -/
theorem clearIsWriteRawOfZeros : Obligations.ClearIsWriteRawOfZeros := by
  unfold Obligations.ClearIsWriteRawOfZeros
  intro r s
  by_cases idle : s.phase = .idle
  · have bytes : wireBytes s.cfg (.writeRaw ⟨0#8, r.level, [0#8, 0#8, 0#8, 0#8]⟩)
        = some (0xC0#8, [0#8, 0#8, 0#8, 0#8]) := by simp [wireBytes]
    obtain ⟨p, run, run', -⟩ := exec_same_bytes (i := .clear r) (q := ⟨0#8, r.level, [0#8, 0#8, 0#8, 0#8]⟩)
      rfl rfl rfl bytes idle rfl rfl rfl
    exact ⟨_, _, run, run', rfl⟩
  · exact ⟨_, _, exec_busy s rfl idle, exec_busy s rfl idle, rfl⟩

/-- Settles O41: both perform the same bytes, and take an element for each. -/
theorem translatedWritesAreWriteRaw : Obligations.TranslatedWritesAreWriteRaw := by
  unfold Obligations.TranslatedWritesAreWriteRaw
  exact fun r s => ⟨exec_translated rfl rfl rfl rfl rfl rfl rfl rfl rfl rfl,
    fun hasChar => exec_translated rfl rfl rfl rfl hasChar rfl rfl rfl rfl rfl⟩

/-- Settles O13: no instruction but these two reads the letter table. -/
theorem withoutLetterTable : Obligations.WithoutLetterTable := by
  unfold Obligations.WithoutLetterTable
  refine ⟨fun s without => ⟨exec_character_refused without, exec_writeChars_refused without⟩, ?_, rfl⟩
  intro i s t b rom exists_without run
  exact exec_withLetters exists_without b rom run

end

section
/-! The errors: what raises them, what they carry, and the lines they leave (60_exceptions.md sections 1 and 2). -/

namespace Sys2Proof.Machine

open Sys2Proof.Safety

/-! The event an error is raised by. -/

/-- From `s` to `t` the error `e` was raised: the timeout by 255 high reads in a row, a line fault by the access that
failed with its failure value (R120, R122). -/
def RaisedBy (s t : State) (e : Err) : Prop :=
  (e = .ackTimeout ∧ ∃ pre, History s t (pre ++ traceHighs (delayUs s.cfg) 255))
    ∨ ∃ info pre a, e = .lineFault info ∧ History s t (pre ++ [Event.failed a])
      ∧ (s.answers[pre.countP isAccess]? = some (.failed info) ∨ s.answers.length ≤ pre.countP isAccess)

theorem FaultAt.raisedBy {s t : State} {full : List Event} {info : Info} (k : FaultAt s t full info) :
    RaisedBy s t (.lineFault info) := by
  obtain ⟨pre, _, _, a, -, -, -, hist, answered⟩ := k
  exact .inr ⟨info, pre, a, rfl, hist, answered⟩

theorem RaisedBy.relabel {s t u : State} {e : Err} (h : RaisedBy s t e) (same : History t u []) : RaisedBy s u e := by
  rcases h with ⟨rfl, pre, hist⟩ | ⟨info, pre, a, rfl, hist, answered⟩
  · exact .inl ⟨rfl, pre, by simpa using hist.trans same⟩
  · exact .inr ⟨info, pre, a, rfl, by simpa using hist.trans same, answered⟩

/-- A flow that raises does so by its last event. -/
def RaisesBy (s : State) (x : Flow Unit) : Prop := ∀ e, x.error? = some e → RaisedBy s x.last e

theorem Straight.raisesBy {s : State} {tr : List Event} {x : Flow Unit} (h : Straight s tr x) : RaisesBy s x := by
  rcases h with ⟨t, rfl, -⟩ | ⟨info, t, rfl, cut⟩
  · rintro e ⟨⟩
  · rintro e ⟨⟩
    exact cut.faultAt.raisedBy

theorem sendByte_raisesBy (v : Byte) (s : State) : RaisesBy s (sendByte v s) := by
  rcases sendByte_cases v s with ⟨k, t, -, sent, -⟩ | ⟨k, info, t, -, raised, cut⟩ | ⟨t, raised, hist, -⟩
  · rw [sent]; rintro e ⟨⟩
  · rw [raised]; rintro e ⟨⟩
    exact cut.faultAt.raisedBy
  · rw [raised]; rintro e ⟨⟩
    exact .inl ⟨rfl, _, hist⟩

theorem settle_error? (x : Flow Unit) : (settle x).reply.error? = x.error? := by
  cases x with
  | done a s => rfl
  | raised e s => rw [settle_raised, raise_reply]; rfl

/-- What a primitive run as an instruction reports was raised by its last event. -/
theorem RaisesBy.settle {s : State} {x : Flow Unit} {e : Err} (h : RaisesBy s x)
    (reply : (settle x).reply = .raised e) : RaisedBy s (settle x) e := by
  have error : x.error? = some e := by rw [← settle_error? x, reply]; rfl
  exact (h e error).relabel (settle_history x)

theorem sendCommand_raisedBy {c : Byte} {s : State} {e : Err} (reply : (settle (sendCommand c s)).reply = .raised e) :
    RaisedBy s (settle (sendCommand c s)) e := by
  rcases settle_sendCommand_eq c s with eq | ⟨eq, ok⟩
  · rw [eq] at reply ⊢
    exact (sendByte_raisesBy c s).settle reply
  · rw [eq, setByteCnt_reply, ok] at reply; cases reply

theorem sendData_raisedBy {d : Byte} {s : State} {e : Err} (reply : (settle (sendData d s)).reply = .raised e) :
    RaisedBy s (settle (sendData d s)) e := by
  rcases settle_sendData_eq d s with eq | ⟨eq, ok⟩
  · rw [eq] at reply ⊢
    exact (sendByte_raisesBy d s).settle reply
  · rw [eq, setByteCnt_reply, ok] at reply; cases reply

/-- An operation writes the error it reports to `RESULT` (R121). -/
theorem OperationEnds.raisedBy {s t : State} {vs : List Byte} {e : Err} (h : OperationEnds s t vs)
    (reply : t.reply = .raised e) : RaisedBy s t e ∧ t.result = e.toResult := by
  cases h with
  | ok _ _ _ _ _ _ reply' => cases reply.symm.trans reply'
  | fault bs info _ fault _ result reply' =>
    cases reply.symm.trans reply'
    exact ⟨fault.raisedBy, result⟩
  | timeout bs v more _ _ hist _ result reply' =>
    cases reply.symm.trans reply'
    rw [← List.append_assoc, ← List.append_assoc] at hist
    exact ⟨.inl ⟨rfl, _, hist⟩, result⟩

theorem request_raisedBy {i : Instr} {r : Request} {s t : State} {e : Err} (request : requestOf i = some r)
    (run : exec i s = .next t) (reply : t.reply = .raised e) : RaisedBy s t e ∧ t.result = e.toResult := by
  rcases exec_request s request with ⟨cmd, ds, bytes, idle, built⟩ | refused
  · obtain ⟨u, run', ends, -⟩ := exec_operation request bytes idle built
    cases run.symm.trans run'
    exact ends.raisedBy reply
  · cases run.symm.trans refused
    cases reply

/-- Every instruction raises an error by its last event. -/
theorem exec_raisedBy {i : Instr} {s t : State} {e : Err} (run : exec i s = .next t) (reply : t.reply = .raised e) :
    RaisedBy s t e := by
  cases i with
  | cmdDataAutoinc | cmdAddr | cmdBrightOn => cases run; exact sendCommand_raisedBy reply
  | data => cases run; exact sendData_raisedBy reply
  | init | clear | writeRaw | writeHex | writeChars | setBrightness | reservedOp6 | reservedOp7 =>
    exact (request_raisedBy rfl run reply).1
  | start => cases run; exact (startCondition_straight s).raisesBy.settle reply
  | sendBit b => cases run; exact (sendBit_straight b s).raisesBy.settle reply
  | sendByte v => cases run; exact (sendByte_raisesBy v s).settle reply
  | stop => cases run; exact (stopCondition_straight s).raisesBy.settle reply
  | hexDigit | bitDelay => cases run; cases reply
  | character c =>
    cases hasChar : s.cfg.hasChar with
    | true => cases run.symm.trans (exec_character hasChar c); cases reply
    | false => cases run.symm.trans (exec_character_refused hasChar c)

/-! The levels an error leaves. -/

/-- From the levels `c` and `d` on, every read finds both lines high, and every drive of DIO finds CLK at a known
level (R86, R89). -/
def ReadsHigh (c d : Option Level) : List Event → Prop
  | [] => True
  | .clkSet b :: es => ReadsHigh (some b) d es
  | .dioSet b :: es => c ≠ none ∧ ReadsHigh c (some b) es
  | .dioRead _ :: es => (c = some true ∧ d = some true) ∧ ReadsHigh c d es
  | .delay _ :: es => ReadsHigh c d es
  | .failed a :: es => ReadsHigh (clkAfter c (.failed a)) (dioAfter d (.failed a)) es

theorem readsHigh_append (c d : Option Level) (a b : List Event) :
    ReadsHigh c d (a ++ b) ↔ ReadsHigh c d a ∧ ReadsHigh (a.foldl clkAfter c) (a.foldl dioAfter d) b := by
  induction a generalizing c d with
  | nil => simp [ReadsHigh]
  | cons e es ih => cases e <;> simp [ReadsHigh, ih, clkAfter, dioAfter, and_assoc]

theorem readsHigh_traceHighs (us k : Nat) : ReadsHigh (some true) (some true) (traceHighs us k) := by
  induction k with
  | zero => trivial
  | succ k ih => rw [traceHighs_succ]; exact ⟨⟨rfl, rfl⟩, ih⟩

theorem readsHigh_traceShift (us : Nat) (v : Byte) (c d : Option Level) : ReadsHigh c d (traceShift us v) := by
  simp [traceShift, traceBit, List.range_succ, ReadsHigh]

theorem readsHigh_traceByte (us k : Nat) (v : Byte) (c d : Option Level) : ReadsHigh c d (traceByte us v k) := by
  rw [traceByte, readsHigh_append, readsHigh_append]
  refine ⟨⟨readsHigh_traceShift us v c d, ?_⟩, ?_⟩
  · rw [foldl_clkAfter_traceShift, foldl_dioAfter_traceShift]
    exact readsHigh_traceHighs us k
  · simp [ReadsHigh]

theorem readsHigh_traceBytes (us : Nat) (bs : List (Byte × Nat)) (c d : Option Level) :
    ReadsHigh c d (traceBytes us bs) := by
  induction bs generalizing c d with
  | nil => trivial
  | cons b bs ih =>
    rw [← List.singleton_append, traceBytes_append, traceBytes_singleton, readsHigh_append]
    exact ⟨readsHigh_traceByte us b.2 b.1 c d, ih _ _⟩

theorem readsHigh_traceTransaction (us : Nat) (bs : List (Byte × Nat)) (c d : Option Level) :
    ReadsHigh c d (traceTransaction us bs) := by
  rw [traceTransaction, readsHigh_append, readsHigh_append]
  refine ⟨⟨?_, readsHigh_traceBytes us bs _ _⟩, ?_⟩
  · simp [traceStart, ReadsHigh]
  · simp [traceStop, ReadsHigh]

theorem latchView_eq_none {known : Bool} {l : Level} (h : latchView known l = none) : known = false := by
  cases known with
  | true => cases h
  | false => rfl

/-- After the acknowledgement clock of a byte nothing but reads came, and both lines are high (R85, R86). -/
theorem OperationEnds.timeout_latches {s t : State} {vs : List Byte} (h : OperationEnds s t vs)
    (result : t.result = .ackTimeout) :
    latchView t.clkKnown t.clkO = some true ∧ latchView t.dioKnown t.dioO = some true := by
  cases h with
  | timeout bs v more _ _ hist =>
    exact ⟨hist.clk.trans (by simp [List.foldl_append]), hist.dio.trans (by simp [List.foldl_append])⟩
  | ok _ _ _ _ _ result' | fault _ _ _ _ _ result' => cases result.symm.trans result'

/-- Where every event of a stretch completed, its last one did. -/
theorem History.getLast?_ne_failed {s t : State} {seg : List Event} (hist : History s t seg) (some_event : seg ≠ [])
    (completed : ∀ e ∈ seg, isCompleted e = true) (a : Access) : t.events.getLast? ≠ some (.failed a) := by
  rw [hist.events, List.getLast?_append_of_ne_nil _ some_event]
  intro last
  exact Bool.false_ne_true (completed _ (List.mem_of_getLast? last))

/-- The levels an operation leaves whose last event is a failed access: `c` and `d` are the levels before it, both
high for a read, CLK at a known level for a drive of DIO. -/
theorem OperationEnds.failed_latches {s t : State} {vs : List Byte} {a : Access} (h : OperationEnds s t vs)
    (last : t.events.getLast? = some (.failed a)) :
    ∃ c d, latchView t.clkKnown t.clkO = clkAfter c (.failed a) ∧ latchView t.dioKnown t.dioO = dioAfter d (.failed a)
      ∧ (a = .read → c = some true ∧ d = some true) ∧ (∀ b, a = .dio b → c ≠ none) := by
  cases h with
  | ok bs _ _ hist =>
    exact absurd last (hist.getLast?_ne_failed (by simp [traceTransaction, traceStart])
      (traceTransaction_completed _ bs) a)
  | timeout bs v more _ _ hist =>
    refine absurd last (hist.getLast?_ne_failed (by simp [traceStart]) ?_ a)
    exact completed_append (traceStart_completed _) (completed_append (traceBytes_completed _ bs)
      (completed_append (traceShift_completed _ v) (traceHighs_completed _ 255)))
  | fault bs info _ fault =>
    obtain ⟨pre, e, post, a', full, access, -, hist, -⟩ := fault
    rw [hist.events, ← List.append_assoc, List.getLast?_concat, Option.some.injEq, Event.failed.injEq] at last
    subst last
    refine ⟨_, _, by rw [hist.clk, List.foldl_append]; rfl, by rw [hist.dio, List.foldl_append]; rfl, ?_, ?_⟩
    all_goals
      have before := readsHigh_traceTransaction (delayUs s.cfg) bs (latchView s.clkKnown s.clkO)
        (latchView s.dioKnown s.dioO)
      rw [full, readsHigh_append] at before
    · rintro rfl
      cases e <;> cases access
      exact before.2.1
    · rintro b rfl
      cases e <;> cases access
      exact before.2.1

end Sys2Proof.Machine

open Sys2Proof Sys2Proof.Machine Sys2Proof.Safety

/-- Settles O43. -/
theorem twoErrorsOnly : Obligations.TwoErrorsOnly := by
  unfold Obligations.TwoErrorsOnly
  intro i s t e run reply
  rcases exec_raisedBy run reply with ⟨timeout, pre, hist⟩ | ⟨info, pre, a, fault, hist, -⟩
  · exact ⟨pre, _, by rw [hist.events, List.append_assoc], .inl ⟨timeout, rfl⟩⟩
  · exact ⟨pre, _, by rw [hist.events, List.append_assoc], .inr ⟨info, a, fault, rfl⟩⟩

/-- Settles O45: the failed access is the last, so its answer is the last one used. -/
theorem lineFaultCarriesPinValue : Obligations.LineFaultCarriesPinValue := by
  unfold Obligations.LineFaultCarriesPinValue
  intro i s t info run reply within
  rcases exec_raisedBy run reply with ⟨timeout, -⟩ | ⟨info', pre, a, fault, hist, answered⟩
  · cases timeout
  · cases fault
    have count : t.accesses = s.accesses + pre.countP isAccess + 1 := by
      rw [hist.accesses, List.countP_append]; rfl
    have last : t.accesses - s.accesses - 1 = pre.countP isAccess := by omega
    refine ⟨by omega, ?_, fun isRequest => ?_⟩
    · rw [last]
      exact answered.resolve_right (by omega)
    · obtain ⟨r, request⟩ := Option.isSome_iff_exists.1 isRequest
      exact (request_raisedBy request run reply).2

/-- Settles O47. -/
theorem lineLevelsAfterAbort : Obligations.LineLevelsAfterAbort := by
  unfold Obligations.LineLevelsAfterAbort
  intro i s t opens ready run
  obtain ⟨cmd, ds, bytes⟩ := exists_wireBytes opens
  obtain ⟨ends, -, -, -⟩ := exec_ready bytes ready run
  refine ⟨fun timeout => ?_, fun last => ?_, fun b last => ?_, fun b last => ?_⟩
  · obtain ⟨clk, dio⟩ := ends.timeout_latches timeout
    obtain ⟨clkKnown, clkO⟩ := latchView_eq_some clk
    obtain ⟨dioKnown, dioO⟩ := latchView_eq_some dio
    exact ⟨clkO, clkKnown, dioO, dioKnown⟩
  · obtain ⟨c, d, clk, dio, high, -⟩ := ends.failed_latches last
    obtain ⟨rfl, rfl⟩ := high rfl
    obtain ⟨clkKnown, clkO⟩ := latchView_eq_some clk
    obtain ⟨dioKnown, dioO⟩ := latchView_eq_some dio
    exact ⟨clkO, clkKnown, dioO, dioKnown⟩
  · obtain ⟨c, d, clk, -⟩ := ends.failed_latches last
    exact latchView_eq_none clk
  · obtain ⟨c, d, clk, dio, -, known⟩ := ends.failed_latches last
    obtain ⟨level, rfl⟩ := Option.ne_none_iff_exists'.1 (known b rfl)
    exact ⟨latchView_eq_none dio, (latchView_eq_some clk).1⟩

end

section
/-! What a device on the far side of the lines makes out of an operation (42_commands.md section 8; 41_transport.md
section 6; the reader of 95_test_vectors.md section 2). -/

namespace Sys2Proof.Machine

open Sys2Proof.Safety

/-! The reader, one stretch of events after the other. -/

/-- What a device has made out only grows. -/
theorem onEvent_out (w : WireReader) (e : Event) : w.out <+: (w.onEvent e).out := by
  cases e with
  | clkSet b =>
    simp only [WireReader.onEvent, WireReader.onClk]
    generalize (if w.inside && w.clk == some false && b then w.bits ++ [w.dio.getD false] else w.bits) = sampled
    split
    · exact List.prefix_append _ _
    · exact List.prefix_rfl
  | dioSet b =>
    simp only [WireReader.onEvent, WireReader.onDio]
    split
    · exact List.prefix_append _ _
    · split
      · exact List.prefix_append _ _
      · exact List.prefix_rfl
  | dioRead r | delay n | failed a => exact List.prefix_rfl

theorem foldl_onEvent_out (es : List Event) (w : WireReader) : w.out <+: (es.foldl WireReader.onEvent w).out := by
  induction es generalizing w with
  | nil => exact List.prefix_rfl
  | cons e es ih => exact (onEvent_out w e).trans (ih _)

theorem readWire_prefix {a b : List Event} (h : a <+: b) : readWire a <+: readWire b := by
  obtain ⟨rest, rfl⟩ := h
  rw [readWire, readWire, List.foldl_append]
  exact foldl_onEvent_out rest _

/-- A failed access shows the device nothing. -/
theorem readWire_filter (es : List Event) : readWire (es.filter isCompleted) = readWire es := by
  suffices h : ∀ w, (es.filter isCompleted).foldl WireReader.onEvent w = es.foldl WireReader.onEvent w by
    rw [readWire, readWire, h]
  induction es with
  | nil => exact fun _ => rfl
  | cons e es ih =>
    intro w
    cases e with
    | clkSet | dioSet | dioRead | delay | failed => exact ih _

/-- The reader inside a transaction while CLK is high, with the bits sampled of the byte under way. -/
def reading (dio : Option Level) (bits : List Level) (out : List WireItem) : WireReader :=
  { clk := some true, dio := dio, inside := true, bits := bits, out := out }

theorem foldl_onEvent_traceStart (us : Nat) :
    (traceStart us).foldl WireReader.onEvent WireReader.fresh = reading (some false) [] [.start] := rfl

/-- A data bit is sampled at the rise of CLK. -/
theorem foldl_onEvent_traceBit (us : Nat) (b : Level) (dio : Option Level) {bits : List Level} (out : List WireItem)
    (room : bits.length < 8) :
    (traceBit us b).foldl WireReader.onEvent (reading dio bits out) = reading (some b) (bits ++ [b]) out := by
  have unfull : bits.length ≠ 9 := by omega
  have unfull' : bits.length ≠ 8 := by omega
  simp [traceBit, WireReader.onEvent, WireReader.onClk, WireReader.onDio, reading, unfull, unfull']

/-- The ninth rise of CLK is the acknowledgement clock, and makes a byte of the eight bits before it. -/
theorem foldl_onEvent_ackClock (us : Nat) (b : Level) (dio : Option Level) {bits : List Level} (out : List WireItem)
    (full : bits.length = 8) :
    (traceBit us b).foldl WireReader.onEvent (reading dio bits out)
      = reading (some b) [] (out ++ [.byte (byteOfBits bits)]) := by
  have taken : (bits ++ [b]).take 8 = bits := by rw [← full, List.take_left]
  simp [traceBit, WireReader.onEvent, WireReader.onClk, WireReader.onDio, reading, full, taken]

theorem traceData_concat (us : Nat) (v : Byte) (n : Nat) :
    traceData us v (n + 1) = traceData us v n ++ traceBit us (v.getLsbD n) := by
  simp [traceData, List.range_succ]

theorem foldl_onEvent_traceData (us : Nat) (v : Byte) {n : Nat} (dio : Option Level) (out : List WireItem)
    (h : n ≤ 8) :
    ∃ dio', (traceData us v n).foldl WireReader.onEvent (reading dio [] out)
      = reading dio' ((List.range n).map v.getLsbD) out := by
  induction n with
  | zero => exact ⟨dio, rfl⟩
  | succ n ih =>
    obtain ⟨dio', eq⟩ := ih (by omega)
    refine ⟨some (v.getLsbD n), ?_⟩
    rw [traceData_concat, List.foldl_append, eq, foldl_onEvent_traceBit _ _ _ _ (by simpa using h), List.range_succ,
      List.map_append]
    rfl

/-- The bits of a byte, bit 0 first, are that byte (R32). -/
theorem byteOfBits_lsbFirst (v : Byte) : byteOfBits ((List.range 8).map v.getLsbD) = v := by
  revert v
  decide

theorem foldl_onEvent_traceHighs (us k : Nat) (w : WireReader) : (traceHighs us k).foldl WireReader.onEvent w = w := by
  induction k with
  | zero => rfl
  | succ k ih => rw [traceHighs_succ, List.foldl_append]; exact ih

theorem foldl_onEvent_traceByte (us k : Nat) (v : Byte) (dio : Option Level) (out : List WireItem) :
    (traceByte us v k).foldl WireReader.onEvent (reading dio [] out) = reading (some true) [] (out ++ [.byte v]) := by
  obtain ⟨dio', bits⟩ := foldl_onEvent_traceData us v dio out (Nat.le_refl 8)
  have split : traceByte us v k = traceData us v 8 ++ (traceBit us true ++ (traceHighs us k ++ [.dioRead false])) := by
    simp [traceByte, traceShift, traceData]
  rw [split, List.foldl_append, bits, List.foldl_append, foldl_onEvent_ackClock us true dio' out (by simp),
    byteOfBits_lsbFirst, List.foldl_append, foldl_onEvent_traceHighs]
  rfl

theorem foldl_onEvent_traceBytes (us : Nat) (bs : List (Byte × Nat)) (dio : Option Level) (out : List WireItem) :
    ∃ dio', (traceBytes us bs).foldl WireReader.onEvent (reading dio [] out)
      = reading dio' [] (out ++ (bs.map Prod.fst).map .byte) := by
  induction bs generalizing dio out with
  | nil => exact ⟨dio, by simp [traceBytes]⟩
  | cons b bs ih =>
    obtain ⟨dio', eq⟩ := ih (some true) (out ++ [.byte b.1])
    refine ⟨dio', ?_⟩
    rw [← List.singleton_append, traceBytes_append, traceBytes_singleton, List.foldl_append, foldl_onEvent_traceByte, eq]
    simp

/-- A device makes out the start and the bytes of a transaction before its stop. -/
theorem foldl_onEvent_traceOpen (us : Nat) (bs : List (Byte × Nat)) :
    (traceOpen us bs).foldl WireReader.onEvent WireReader.fresh
      = reading (some false) [false] (.start :: (bs.map Prod.fst).map .byte) := by
  obtain ⟨dio, eq⟩ := foldl_onEvent_traceBytes us bs (some false) [.start]
  rw [traceOpen, List.foldl_append, List.foldl_append, foldl_onEvent_traceStart, eq]
  rfl

theorem readWire_traceOpen (us : Nat) (bs : List (Byte × Nat)) :
    readWire (traceOpen us bs) = .start :: (bs.map Prod.fst).map .byte := by
  rw [readWire, foldl_onEvent_traceOpen]
  rfl

theorem readWire_traceTransaction (us : Nat) (bs : List (Byte × Nat)) :
    readWire (traceTransaction us bs) = .start :: (bs.map Prod.fst).map .byte ++ [.stop] := by
  rw [readWire, traceTransaction_eq, List.foldl_append, foldl_onEvent_traceOpen]
  rfl

/-! The operation as the device sees it. -/

/-- What a device makes out of an operation that did not end in OK is a beginning of its start and bytes. -/
theorem OperationEnds.readWire_open {s t : State} {vs : List Byte} {seg : List Event} (h : OperationEnds s t vs)
    (events : t.events = s.events ++ seg) (notOk : t.result ≠ .ok) :
    readWire seg <+: .start :: vs.map .byte := by
  obtain ⟨bs, seg', sent, hist, beginning⟩ := h.open notOk
  have same : seg = seg' := List.append_cancel_left (events.symm.trans hist.events)
  have made_out := readWire_prefix beginning
  rwa [readWire_filter, readWire_traceOpen, sent, ← same] at made_out

theorem OperationEnds.no_stop {s t : State} {vs : List Byte} {seg : List Event} (h : OperationEnds s t vs)
    (events : t.events = s.events ++ seg) (notOk : t.result ≠ .ok) : WireItem.stop ∉ readWire seg := by
  intro stop
  have among := (h.readWire_open events notOk).subset stop
  simp at among

theorem OperationEnds.readWire_ok {s t : State} {vs : List Byte} {seg : List Event} (h : OperationEnds s t vs)
    (events : t.events = s.events ++ seg) (ok : t.result = .ok) : readWire seg = .start :: vs.map .byte ++ [.stop] := by
  obtain ⟨bs, sent, -, hist, -⟩ := h.ok_events ok
  have same : seg = _ := List.append_cancel_left (events.symm.trans hist.events)
  rw [same, readWire_traceTransaction, sent]

/-! Edges (R90). -/

theorem edgesFrom_traceStart (us : Nat) (clk dio : Level) (rest : List Event) :
    edgesFrom clk dio (traceStart us ++ rest) = false :: edgesFrom true false rest := by
  simp [traceStart, edgesFrom]

/-- DIO changes only while CLK is low in a bit. -/
theorem edgesFrom_traceBit (us : Nat) (b clk dio : Level) (rest : List Event) :
    edgesFrom clk dio (traceBit us b ++ rest) = edgesFrom true b rest := by
  simp [traceBit, edgesFrom]

theorem edgesFrom_traceHighs (us k : Nat) (clk dio : Level) (rest : List Event) :
    edgesFrom clk dio (traceHighs us k ++ rest) = edgesFrom clk dio rest := by
  induction k with
  | zero => rfl
  | succ k ih => rw [traceHighs_succ]; exact ih

theorem edgesFrom_traceByte (us k : Nat) (v : Byte) (clk dio : Level) (rest : List Event) :
    edgesFrom clk dio (traceByte us v k ++ rest) = edgesFrom true true rest := by
  simp [traceByte, traceShift, List.range_succ, edgesFrom_traceBit, edgesFrom_traceHighs, edgesFrom]

theorem edgesFrom_traceBytes (us : Nat) (bs : List (Byte × Nat)) (clk dio : Level) (rest : List Event) :
    ∃ clk' dio', edgesFrom clk dio (traceBytes us bs ++ rest) = edgesFrom clk' dio' rest := by
  induction bs generalizing clk dio with
  | nil => exact ⟨clk, dio, rfl⟩
  | cons b bs ih =>
    obtain ⟨clk', dio', eq⟩ := ih true true
    refine ⟨clk', dio', ?_⟩
    rw [← List.singleton_append, traceBytes_append, traceBytes_singleton, List.append_assoc, edgesFrom_traceByte, eq]

/-- The start condition and the stop condition, and no edge between them, whatever the levels before. -/
theorem edgesFrom_traceTransaction (us : Nat) (bs : List (Byte × Nat)) (clk dio : Level) :
    edgesFrom clk dio (traceTransaction us bs) = [false, true] := by
  obtain ⟨clk', dio', eq⟩ := edgesFrom_traceBytes us bs true false (traceStop us)
  rw [traceTransaction, List.append_assoc, edgesFrom_traceStart, eq]
  simp [traceStop, edgesFrom]

theorem risingFrom_traceBit (us : Nat) (b clk : Level) (rest : List Event) :
    risingFrom clk (traceBit us b ++ rest) = 1 + risingFrom true rest := by
  simp [traceBit, risingFrom]

theorem risingFrom_traceHighs (us k : Nat) (clk : Level) (rest : List Event) :
    risingFrom clk (traceHighs us k ++ rest) = risingFrom clk rest := by
  induction k with
  | zero => rfl
  | succ k ih => rw [traceHighs_succ]; exact ih

theorem risingFrom_traceByte (us k : Nat) (v : Byte) (clk : Level) (rest : List Event) :
    risingFrom clk (traceByte us v k ++ rest) = 9 + risingFrom true rest := by
  simp [traceByte, traceShift, List.range_succ, risingFrom_traceBit, risingFrom_traceHighs, risingFrom]
  omega

/-- Nine pulses a byte. -/
theorem risingFrom_traceBytes (us : Nat) (bs : List (Byte × Nat)) (rest : List Event) :
    risingFrom true (traceBytes us bs ++ rest) = 9 * bs.length + risingFrom true rest := by
  induction bs with
  | nil => simp [traceBytes]
  | cons b bs ih =>
    rw [← List.singleton_append, traceBytes_append, traceBytes_singleton, List.append_assoc, risingFrom_traceByte, ih,
      List.length_append, List.length_singleton]
    omega

end Sys2Proof.Machine

open Sys2Proof Sys2Proof.Machine Sys2Proof.Safety

/-- Settles O46. -/
theorem noStopAfterError : Obligations.NoStopAfterError := by
  unfold Obligations.NoStopAfterError
  intro i s t seg opens ready run events notOk
  obtain ⟨cmd, ds, bytes⟩ := exists_wireBytes opens
  exact (exec_ready bytes ready run).1.no_stop events notOk

/-- Settles O48. -/
theorem deviceReadsTheBytes : Obligations.DeviceReadsTheBytes := by
  unfold Obligations.DeviceReadsTheBytes
  intro i s t cmd ds seg bytes ready run events
  obtain ⟨ends, -, -, -⟩ := exec_ready bytes ready run
  by_cases ok : t.result = .ok
  · have whole := ends.readWire_ok events ok
    exact ⟨whole ▸ List.prefix_rfl, fun _ => whole, fun _ => ok⟩
  · refine ⟨(ends.readWire_open events ok).trans (List.prefix_append _ _), fun ok' => absurd ok' ok, fun whole => ?_⟩
    exact absurd (by rw [whole]; simp) (ends.no_stop events ok)

/-- Settles O49. -/
theorem oneStartOneStopEdge : Obligations.OneStartOneStopEdge := by
  unfold Obligations.OneStartOneStopEdge
  intro i s t cmd ds seg clk dio bytes ready run ok events
  obtain ⟨ends, -, -, -⟩ := exec_ready bytes ready run
  obtain ⟨bs, sent, -, hist, -⟩ := ends.ok_events ok
  have same : seg = traceTransaction (delayUs s.cfg) bs := List.append_cancel_left (events.symm.trans hist.events)
  have length : bs.length = ds.length + 1 := by rw [← List.length_map (f := Prod.fst), sent, List.length_cons]
  subst same
  refine ⟨edgesFrom_traceTransaction _ bs clk dio, traceBytes (delayUs s.cfg) bs ++ traceStop (delayUs s.cfg), ?_, ?_⟩
  · rw [traceTransaction, List.append_assoc]
  · rw [risingFrom_traceBytes, length]
    rfl

/-- Settles O50. -/
theorem deviceReadsTheOperation : Obligations.DeviceReadsTheOperation := by
  unfold Obligations.DeviceReadsTheOperation
  intro i s t cmd ds seg bytes ready run ok events
  obtain ⟨ends, -, -, -⟩ := exec_ready bytes ready run
  obtain ⟨bs, -, -, hist, count⟩ := ends.ok_events ok
  obtain ⟨clkKnown, clkO⟩ := latchView_eq_some (hist.clk.trans (foldl_clkAfter_traceTransaction _ bs _))
  obtain ⟨dioKnown, dioO⟩ := latchView_eq_some (hist.dio.trans (foldl_dioAfter_traceTransaction _ bs _))
  exact ⟨ends.readWire_ok events ok, count, clkO, clkKnown, dioO, dioKnown⟩

end

section
/-! The step of the machine: what each step is, how `PHASE` moves, and the invariant (10_state.md sections 1 to 3;
20_memory.md R38; 42_commands.md R100; 60_exceptions.md R124). -/

namespace Sys2Proof.Machine

open Sys2Proof.Safety

/-! What a step is. -/

theorem step_advance {s : State} (own : s.todo ≠ [] ∨ s.calls = []) : step s = .next (advance s) := by
  rcases step_cases s with eq | ⟨c, cs, _, empty, placed, -⟩ | ⟨c, cs, _, empty, placed, -⟩
  · exact eq
  all_goals
    rcases own with busy | none_placed
    · exact absurd empty busy
    · cases none_placed.symm.trans placed

theorem step_call {s : State} {c : Call} {cs : List Call} {i : Instr} (empty : s.todo = []) (placed : s.calls = c :: cs)
    (decoded : decode c = .instr i) : step s = exec i (s.setCalls cs) := by
  simp [step, empty, nextCall, placed, decoded]

theorem step_malformed {s : State} {c : Call} {cs : List Call} {e : DecodeError} (empty : s.todo = [])
    (placed : s.calls = c :: cs) (rejected : decode c = .rejected e) : step s = .fault .malformedCall := by
  simp [step, empty, nextCall, placed, rejected]

theorem decode_tableCall {nbits w : Nat} {i : Instr} (h : decodeTableWord nbits w = some i) :
    decode (tableCall nbits w) = .instr i := by
  unfold decodeTableWord at h
  cases decoded : decode (tableCall nbits w) with
  | instr j => rw [decoded] at h; cases h; rfl
  | rejected e => rw [decoded] at h; cases h

/-! The history of a step. -/

theorem tick_history (s : State) : ∃ seg, History s (tick s) seg ∧ seg.length ≤ 1 := by
  cases todo : s.todo with
  | nil => rw [tick_idle s todo]; exact ⟨[], History.refl s, by simp⟩
  | cons m rest =>
    obtain ⟨seg, hist, short⟩ := micro_history m (s.setTodo rest)
    have whole : History s (micro m (s.setTodo rest)).last seg := (setTodo_history s rest).trans hist
    rw [tick_cons s m rest todo]
    refine ⟨seg, ?_, short⟩
    cases ran : micro m (s.setTodo rest) with
    | done a t => rw [ran] at whole; exact whole
    | raised e t => rw [ran] at whole; simpa using whole.trans (raise_history t e)

/-- CORE's own step makes at most one event; it may take a request off HOST's list. -/
theorem advance_history (s : State) :
    ∃ qs seg, History (s.setRequests qs) (advance s) seg ∧ seg.length ≤ 1 := by
  by_cases empty : s.todo = []
  · cases waiting : s.requests with
    | nil => rw [advance_idle s empty waiting]; exact ⟨s.requests, [], History.refl s, by simp⟩
    | cons q qs =>
      rw [advance_present s q qs empty waiting]
      exact ⟨qs, [], present_history _ _ _, by simp⟩
  · rw [advance_tick s empty]
    exact ⟨s.requests, tick_history s⟩

/-- Every step that answers has a history; what it runs may be taken off HOST's list or off the placed ones. -/
theorem step_history {s t : State} (run : step s = .next t) :
    ∃ qs cs seg, History ((s.setRequests qs).setCalls cs) t seg ∧ (s.calls = [] → seg.length ≤ 1) := by
  rcases step_cases s with own | ⟨c, cs, i, -, placed, -, eq⟩ | ⟨c, cs, e, -, -, -, eq⟩
  · cases run.symm.trans own
    obtain ⟨qs, seg, hist, short⟩ := advance_history s
    exact ⟨qs, s.calls, seg, hist, fun _ => short⟩
  · obtain ⟨seg, hist⟩ := exec_history i _ t (eq.symm.trans run)
    exact ⟨s.requests, cs, seg, hist, fun none_placed => by cases none_placed.symm.trans placed⟩
  · cases run.symm.trans eq

/-! The code of an operation. -/

theorem codeSendByte_keepsPhase (v : Byte) : ∀ m ∈ codeSendByte v, keepsPhase m = true := by
  simp [codeSendByte, codeDataBit, codeSendBit, List.replicate_succ, keepsPhase]

theorem keepsPhase_append {a b : List Micro} (ha : ∀ m ∈ a, keepsPhase m = true) (hb : ∀ m ∈ b, keepsPhase m = true) :
    ∀ m ∈ a ++ b, keepsPhase m = true := fun m hm => (List.mem_append.1 hm).elim (ha m) (hb m)

theorem codeOwn_keepsPhase (ds : List Byte) : ∀ m ∈ codeOwn ds, keepsPhase m = true := by
  intro m hm
  simp only [codeOwn, List.mem_flatten, List.mem_map] at hm
  obtain ⟨_, ⟨d, -, rfl⟩, hm⟩ := hm
  exact keepsPhase_append (codeSendByte_keepsPhase d) (by simp [keepsPhase]) m hm

/-- The request codes that select an operation on a block (R60, R62, R77). -/
def Selects (c : Config) (op : BitVec 3) : Prop := op.toNat < 6 ∧ (op.toNat = 4 → c.hasChar = true)

theorem codeOf_none {s : State} (h : ¬ Selects s.cfg s.op) : codeOf s = none := by
  unfold codeOf
  split
  case h_5 code =>
    split
    · next hasChar => exact absurd ⟨by omega, fun _ => hasChar⟩ h
    · rfl
  case h_7 => rfl
  all_goals exact absurd ⟨by omega, fun four => by omega⟩ h

/-- The code of an operation is a transaction whose body changes no phase. -/
theorem codeOf_some {s : State} (h : Selects s.cfg s.op) :
    ∃ cmd body, codeOf s = some (codeTransaction cmd body) ∧ ∀ m ∈ body, keepsPhase m = true := by
  obtain ⟨inside, letters⟩ := h
  unfold codeOf
  split
  case h_1 => exact ⟨_, [], rfl, by simp⟩
  case h_2 => exact ⟨_, _, rfl, codeOwn_keepsPhase _⟩
  case h_3 | h_4 => exact ⟨_, _, rfl, by simp [keepsPhase]⟩
  case h_5 code =>
    rw [if_pos (letters code)]
    exact ⟨_, _, rfl, by simp [keepsPhase]⟩
  case h_6 => exact ⟨_, [], rfl, by simp⟩
  case h_7 =>
    simp only [imp_false] at *
    omega

theorem present_accepted {op : BitVec 3} {r : Request} {s : State} {code : List Micro} (idle : s.phase = .idle)
    (selected : codeOf (s.accept op r) = some code) :
    present op r s = (((s.accept op r).setPhase .start).setByteCnt 0).setTodo code := by
  simp [present, idle, selected]

theorem present_refused {op : BitVec 3} {r : Request} {s : State} (none_selected : codeOf (s.accept op r) = none) :
    present op r s = s.turnAway := by
  cases phase : s.phase <;> simp [present, phase, none_selected]

/-! The phases. -/

theorem sequenced_idle {s : State} (phase : s.phase = .idle) : Sequenced s ↔ s.todo = [] := by
  simp only [Sequenced, phase]

theorem sequenced_start {s : State} (phase : s.phase = .start) :
    Sequenced s ↔ ∃ pre body, pre <:+ codeStart ∧ (∀ m ∈ body, keepsPhase m = true)
      ∧ s.todo = pre ++ Micro.phase .transfer :: (body ++ codeEnd) := by
  simp only [Sequenced, phase]

theorem sequenced_transfer {s : State} (phase : s.phase = .transfer) :
    Sequenced s ↔ ∃ body, (∀ m ∈ body, keepsPhase m = true) ∧ s.todo = body ++ codeEnd := by
  simp only [Sequenced, phase]

theorem sequenced_stop {s : State} (phase : s.phase = .stop) :
    Sequenced s ↔ s.todo ≠ [] ∧ s.todo <:+ codeStop ++ [Micro.finish] := by
  simp only [Sequenced, phase]

/-- Between operations nothing is left to do, and only then. -/
theorem sequenced_todo {s : State} (h : Sequenced s) : s.todo = [] ↔ s.phase = .idle := by
  cases phase : s.phase with
  | idle => simpa [phase] using (sequenced_idle phase).1 h
  | start =>
    obtain ⟨pre, body, -, -, todo⟩ := (sequenced_start phase).1 h
    simp [todo]
  | transfer =>
    obtain ⟨body, -, todo⟩ := (sequenced_transfer phase).1 h
    simp [todo, codeEnd]
  | stop => simpa using ((sequenced_stop phase).1 h).1

/-- The code of a transaction is an end of its own start condition and the rest. -/
theorem codeTransaction_eq (cmd : Byte) (body : List Micro) :
    codeTransaction cmd body
      = codeStart ++ Micro.phase .transfer :: ((codeSendByte cmd ++ Micro.firstByte :: body) ++ codeEnd) := by
  simp [codeTransaction, codeEnd]

/-- The lines that drive or wait: those of the start and stop conditions. -/
def isLine : Micro → Prop
  | .clk _ | .dio _ | .wait => True
  | .phase _ | .dioShreg | .load _ | .shift | .pollReset | .poll | .pollBump | .firstByte | .nextByte | .elem _
  | .finish => False

theorem isLine_of_mem_codeStart {m : Micro} (h : m ∈ codeStart) : isLine m := by
  simp only [codeStart, List.mem_cons, List.not_mem_nil, or_false] at h
  rcases h with rfl | rfl | rfl | rfl | rfl <;> trivial

/-- The lines of a stop condition end with the return to Idle. -/
theorem suffix_codeStop_cases {m : Micro} {rest : List Micro} (h : m :: rest <:+ codeStop ++ [Micro.finish]) :
    (m = .finish ∧ rest = []) ∨ (isLine m ∧ rest ≠ [] ∧ rest <:+ codeStop ++ [Micro.finish]) := by
  have later : rest <:+ codeStop ++ [Micro.finish] := (List.suffix_cons m rest).trans h
  simp only [codeStop, List.cons_append, List.nil_append, List.suffix_cons_iff, List.cons.injEq, List.suffix_nil,
    reduceCtorEq, or_false] at h
  rcases h with ⟨rfl, rfl⟩ | ⟨rfl, rfl⟩ | ⟨rfl, rfl⟩ | ⟨rfl, rfl⟩ | ⟨rfl, rfl⟩ | ⟨rfl, rfl⟩ | ⟨rfl, rfl⟩
  case inr.inr.inr.inr.inr.inr => exact .inl ⟨rfl, rfl⟩
  all_goals exact .inr ⟨trivial, by simp, later⟩

/-! One micro-operation. -/

theorem tick_of_done {s t : State} {m : Micro} {rest : List Micro} (todo : s.todo = m :: rest)
    (ran : micro m (s.setTodo rest) = .done () t) : tick s = t := by
  rw [tick_cons s m rest todo, ran]

theorem tick_of_raised {s t : State} {m : Micro} {rest : List Micro} {e : Err} (todo : s.todo = m :: rest)
    (ran : micro m (s.setTodo rest) = .raised e t) (busy : t.phase ≠ .idle) : tick s = t.abort e := by
  rw [tick_cons s m rest todo, ran]
  exact raise_busy t e busy

theorem clkSet_steady (b : Level) (s : State) : Steady s (clkSet b s) := (clkSet_straight b s).steady

theorem dioSet_steady (b : Level) (s : State) : Steady s (dioSet b s) := (dioSet_straight b s).steady

theorem micro_line {m : Micro} (h : isLine m) (s : State) : Steady s (micro m s) := by
  cases m with
  | clk b => exact clkSet_steady b s
  | dio b => exact dioSet_steady b s
  | wait => exact (delay_straight s).steady
  | phase | dioShreg | load | shift | pollReset | poll | pollBump | firstByte | nextByte | elem | finish => cases h

/-- The phase and the result as they were. -/
structure SameStatus (s t : State) : Prop where
  phase : t.phase = s.phase
  result : t.result = s.result
  resultKnown : t.resultKnown = s.resultKnown

theorem SameCommand.status {s t : State} (h : SameCommand s t) : SameStatus s t := ⟨h.phase, h.result, h.resultKnown⟩

/-- A micro-operation that keeps the phase puts only such lines before what is left. -/
theorem micro_keepsPhase {m : Micro} (h : keepsPhase m = true) (s : State) :
    SameStatus s (micro m s).last
      ∧ ((micro m s).error? = none →
        ∃ more, (∀ m ∈ more, keepsPhase m = true) ∧ (micro m s).last.todo = more ++ s.todo) := by
  have steady : ∀ {x : Flow Unit}, Steady s x →
      SameStatus s x.last ∧ (x.error? = none → ∃ more, (∀ m ∈ more, keepsPhase m = true) ∧ x.last.todo = more ++ s.todo) :=
    fun hx => ⟨hx.2.status, fun _ => ⟨[], by simp, hx.2.todo⟩⟩
  cases m with
  | clk b => exact steady (clkSet_steady b s)
  | dio b => exact steady (dioSet_steady b s)
  | dioShreg => exact steady (dioSet_steady _ s)
  | wait | load | shift | pollReset | pollBump | firstByte | nextByte =>
    exact ⟨⟨rfl, rfl, rfl⟩, fun _ => ⟨[], by simp, rfl⟩⟩
  | poll =>
    simp only [micro]
    split
    · rcases dioRead_cases s with ⟨r, t, read, -, -, same, -⟩ | ⟨info, t, read, -, -, same, -⟩
      · rw [read, bind_done]
        cases r with
        | false => exact ⟨same.status, fun _ => ⟨[], by simp, same.todo⟩⟩
        | true =>
          exact ⟨⟨same.phase, same.result, same.resultKnown⟩, fun _ =>
            ⟨[.wait, .pollBump, .poll], by simp [keepsPhase], by simp [same.todo]⟩⟩
      · rw [read]
        exact ⟨same.status, fun ok => by cases ok⟩
    · exact ⟨⟨rfl, rfl, rfl⟩, fun ok => by cases ok⟩
  | elem t =>
    simp only [micro]
    split
    · exact ⟨⟨rfl, rfl, rfl⟩, fun _ => ⟨[], by simp, rfl⟩⟩
    · next e es _ =>
      refine ⟨⟨rfl, rfl, rfl⟩, fun _ => ⟨codeSendByte (translate t s e) ++ [.nextByte, .elem t], ?_, ?_⟩⟩
      · exact keepsPhase_append (codeSendByte_keepsPhase _) (by simp [keepsPhase])
      · simp
  | phase | finish => cases h

/-! How `PHASE` moves. -/

/-- How a step of CORE's own moves `PHASE`, and what it writes to `RESULT` (R14, R19, R100, R124). -/
inductive Moves (s t : State) : Prop
  | stays (same : SameStatus s t)
  | accepts (q : HostRequest) (before : s.phase = .idle) (after : t.phase = .start)
      (presented : s.requests = q :: t.requests) (byteCnt : t.byteCnt = 0) (result : t.result = s.result)
      (resultKnown : t.resultKnown = s.resultKnown)
  | transfers (before : s.phase = .start) (after : t.phase = .transfer) (result : t.result = s.result)
      (resultKnown : t.resultKnown = s.resultKnown)
  | stops (before : s.phase = .transfer) (after : t.phase = .stop) (result : t.result = s.result)
      (resultKnown : t.resultKnown = s.resultKnown)
  | finishes (before : s.phase = .stop) (after : t.phase = .idle) (result : t.result = .ok)
      (resultKnown : t.resultKnown = true)
  | aborts (before : s.phase ≠ .idle) (after : t.phase = .idle) (result : t.result ≠ .ok)
      (resultKnown : t.resultKnown = true) (todo : t.todo = [])

/-- An abort, whatever was left to do. -/
theorem moves_abort {s t : State} (e : Err) (busy : s.phase ≠ .idle) :
    Moves s (t.abort e) ∧ Sequenced (t.abort e) := by
  refine ⟨.aborts busy rfl ?_ rfl rfl, (sequenced_idle rfl).2 rfl⟩
  cases e <;> exact Result.noConfusion

/-- A line of the start or stop condition is worked off, or it raises and aborts. -/
theorem tick_line {s : State} {m : Micro} {rest : List Micro} (line : isLine m) (todo : s.todo = m :: rest)
    (busy : s.phase ≠ .idle) :
    (SameStatus s (tick s) ∧ (tick s).todo = rest) ∨ (Moves s (tick s) ∧ Sequenced (tick s)) := by
  obtain ⟨-, same⟩ := micro_line line (s.setTodo rest)
  cases ran : micro m (s.setTodo rest) with
  | done a t =>
    rw [ran] at same
    rw [tick_of_done todo ran]
    exact .inl ⟨⟨same.phase, same.result, same.resultKnown⟩, same.todo⟩
  | raised e t =>
    rw [ran] at same
    rw [tick_of_raised todo ran (same.phase ▸ busy)]
    exact .inr (moves_abort e busy)

theorem tick_moves_start {s : State} (phase : s.phase = .start) (h : Sequenced s) :
    Moves s (tick s) ∧ Sequenced (tick s) := by
  obtain ⟨pre, body, ofStart, keeps, todo⟩ := (sequenced_start phase).1 h
  cases pre with
  | nil =>
    rw [tick_of_done todo rfl]
    exact ⟨.transfers phase rfl rfl rfl, (sequenced_transfer rfl).2 ⟨body, keeps, rfl⟩⟩
  | cons m pre =>
    have line := isLine_of_mem_codeStart (ofStart.subset (List.mem_cons_self ..))
    rcases tick_line line todo (by rw [phase]; exact Phase.noConfusion) with ⟨same, left⟩ | aborted
    · exact ⟨.stays same, (sequenced_start (same.phase.trans phase)).2
        ⟨pre, body, (List.suffix_cons m pre).trans ofStart, keeps, left⟩⟩
    · exact aborted

theorem tick_moves_transfer {s : State} (phase : s.phase = .transfer) (h : Sequenced s) :
    Moves s (tick s) ∧ Sequenced (tick s) := by
  obtain ⟨body, keeps, todo⟩ := (sequenced_transfer phase).1 h
  cases body with
  | nil =>
    rw [tick_of_done todo rfl]
    exact ⟨.stops phase rfl rfl rfl, (sequenced_stop rfl).2 ⟨by simp, List.suffix_rfl⟩⟩
  | cons m body =>
    have busy : s.phase ≠ .idle := by rw [phase]; exact Phase.noConfusion
    obtain ⟨same, left⟩ := micro_keepsPhase (keeps m (List.mem_cons_self ..)) (s.setTodo (body ++ codeEnd))
    cases ran : micro m (s.setTodo (body ++ codeEnd)) with
    | done a t =>
      rw [ran] at same left
      obtain ⟨more, keeps', left⟩ := left rfl
      rw [tick_of_done todo ran]
      refine ⟨.stays ⟨same.phase, same.result, same.resultKnown⟩, (sequenced_transfer (same.phase.trans phase)).2
        ⟨more ++ body, keepsPhase_append keeps' fun m hm => keeps m (List.mem_cons_of_mem _ hm), ?_⟩⟩
      rw [List.append_assoc]
      exact left
    | raised e t =>
      rw [ran] at same
      rw [tick_of_raised todo ran (same.phase ▸ busy)]
      exact moves_abort e busy

theorem tick_moves_stop {s : State} (phase : s.phase = .stop) (h : Sequenced s) :
    Moves s (tick s) ∧ Sequenced (tick s) := by
  obtain ⟨some_left, ofStop⟩ := (sequenced_stop phase).1 h
  obtain ⟨m, rest, todo⟩ := List.exists_cons_of_ne_nil some_left
  rw [todo] at ofStop
  rcases suffix_codeStop_cases ofStop with ⟨rfl, rfl⟩ | ⟨line, some_left', ofStop'⟩
  · rw [tick_of_done todo rfl]
    exact ⟨.finishes phase rfl rfl rfl, (sequenced_idle rfl).2 rfl⟩
  · rcases tick_line line todo (by rw [phase]; exact Phase.noConfusion) with ⟨same, left⟩ | aborted
    · exact ⟨.stays same, (sequenced_stop (same.phase.trans phase)).2 (by rw [left]; exact ⟨some_left', ofStop'⟩)⟩
    · exact aborted

/-- A request of HOST's in Idle: accepted, with the whole of its code to do, or turned away. -/
theorem present_moves {q : HostRequest} {qs : List HostRequest} {s : State} (waiting : s.requests = q :: qs)
    (idle : s.phase = .idle) (empty : s.todo = []) :
    Moves s (present q.op q.operands (s.setRequests qs)) ∧ Sequenced (present q.op q.operands (s.setRequests qs)) := by
  by_cases selects : Selects s.cfg q.op
  · obtain ⟨cmd, body, selected, keeps⟩ := codeOf_some (s := (s.setRequests qs).accept q.op q.operands) selects
    rw [present_accepted (s := s.setRequests qs) idle selected]
    refine ⟨.accepts q idle rfl waiting rfl rfl rfl, (sequenced_start rfl).2
      ⟨codeStart, codeSendByte cmd ++ Micro.firstByte :: body, List.suffix_rfl, ?_, codeTransaction_eq cmd body⟩⟩
    exact keepsPhase_append (codeSendByte_keepsPhase cmd) (List.forall_mem_cons.2 ⟨rfl, keeps⟩)
  · rw [present_refused (r := q.operands) (s := s.setRequests qs) (codeOf_none selects)]
    exact ⟨.stays ⟨rfl, rfl, rfl⟩, (sequenced_idle idle).2 empty⟩

theorem tick_moves {s : State} (busy : s.phase ≠ .idle) (h : Sequenced s) :
    Moves s (tick s) ∧ Sequenced (tick s) := by
  cases phase : s.phase with
  | idle => exact absurd phase busy
  | start => exact tick_moves_start phase h
  | transfer => exact tick_moves_transfer phase h
  | stop => exact tick_moves_stop phase h

theorem advance_moves {s : State} (h : Sequenced s) : Moves s (advance s) ∧ Sequenced (advance s) := by
  by_cases empty : s.todo = []
  · cases waiting : s.requests with
    | nil => rw [advance_idle s empty waiting]; exact ⟨.stays ⟨rfl, rfl, rfl⟩, h⟩
    | cons q qs =>
      rw [advance_present s q qs empty waiting]
      exact present_moves waiting ((sequenced_todo h).1 empty) empty
  · rw [advance_tick s empty]
    exact tick_moves (fun idle => empty ((sequenced_todo h).2 idle)) h

/-! The invariant. -/

theorem Framed.idle {s t : State} (h : Framed s t) (idle : s.phase = .idle) (empty : s.todo = []) :
    t.phase = .idle ∧ t.todo = [] := by
  obtain ⟨phase, -, -, todo⟩ := h.progress (.inr idle)
  exact ⟨phase.trans idle, todo.trans empty⟩

/-- A wire byte is counted or not, beside its `SEND_BYTE`. -/
theorem Framed.idle_counted {s u t : State} {n : Nat} (h : Framed s u) (idle : s.phase = .idle) (empty : s.todo = [])
    (counted : t = u ∨ t = u.setByteCnt n ∧ u.reply = .ok) : t.phase = .idle ∧ t.todo = [] := by
  have quiet := h.idle idle empty
  rcases counted with rfl | ⟨rfl, -⟩ <;> exact quiet

theorem request_idle {i : Instr} {r : Request} {s t : State} (request : requestOf i = some r) (idle : s.phase = .idle)
    (empty : s.todo = []) (run : exec i s = .next t) : t.phase = .idle ∧ t.todo = [] := by
  rcases exec_request s request with ⟨cmd, ds, bytes, -, built⟩ | refused
  · obtain ⟨u, run', -, leaves⟩ := exec_operation request bytes idle built
    cases run.symm.trans run'
    exact ⟨leaves.phase, leaves.todo empty⟩
  · cases run.symm.trans refused
    exact ⟨idle, empty⟩

/-- An instruction run whole between operations leaves no operation in progress. -/
theorem exec_idle {i : Instr} {s t : State} (idle : s.phase = .idle) (empty : s.todo = []) (run : exec i s = .next t) :
    t.phase = .idle ∧ t.todo = [] := by
  cases i with
  | cmdDataAutoinc | cmdAddr | cmdBrightOn =>
    cases run
    exact (sendByte_steady _ s).framed.idle_counted idle empty (settle_sendCommand_eq _ s)
  | data d =>
    cases run
    exact (sendByte_steady _ s).framed.idle_counted idle empty (settle_sendData_eq d s)
  | init | clear | writeRaw | writeHex | writeChars | setBrightness | reservedOp6 | reservedOp7 =>
    exact request_idle rfl idle empty run
  | start => cases run; exact (startCondition_steady s).framed.idle idle empty
  | sendBit b => cases run; exact (sendBit_straight b s).steady.framed.idle idle empty
  | sendByte v => cases run; exact (sendByte_steady v s).framed.idle idle empty
  | stop => cases run; exact (stopCondition_steady s).framed.idle idle empty
  | hexDigit | bitDelay => cases run; exact ⟨idle, empty⟩
  | character c =>
    cases hasChar : s.cfg.hasChar with
    | true => cases run.symm.trans (exec_character hasChar c); exact ⟨idle, empty⟩
    | false => cases run.symm.trans (exec_character_refused hasChar c)

theorem step_sequenced {s t : State} (h : Sequenced s) (run : step s = .next t) : Sequenced t := by
  rcases step_cases s with own | ⟨c, cs, i, empty, -, -, eq⟩ | ⟨c, cs, e, -, -, -, eq⟩
  · cases run.symm.trans own
    exact (advance_moves h).2
  · obtain ⟨phase, todo⟩ := exec_idle (s := s.setCalls cs) ((sequenced_todo h).1 empty) empty (eq.symm.trans run)
    exact (sequenced_idle phase).2 todo
  · cases run.symm.trans eq

/-- The latches and the delays are read off the history. -/
theorem History.latchesTrue {s t : State} {seg : List Event} (hist : History s t seg) (h : LatchesTrue s) :
    LatchesTrue t := by
  obtain ⟨clk, dio⟩ := h
  constructor
  · rw [hist.clk, hist.events, List.foldl_append, clk]
  · rw [hist.dio, hist.events, List.foldl_append, dio]

theorem History.delaysTrue {s t : State} {seg : List Event} (hist : History s t seg) (h : DelaysTrue s) :
    DelaysTrue t := by
  intro n hn
  rw [hist.events, List.mem_append] at hn
  rw [hist.cfg]
  exact hn.elim (h n) (hist.delays n)

theorem step_inv {s t : State} (h : Inv s) (run : step s = .next t) : Inv t := by
  obtain ⟨sequenced, latches, delays⟩ := h
  obtain ⟨qs, cs, seg, hist, -⟩ := step_history run
  exact ⟨step_sequenced sequenced run, hist.latchesTrue latches, hist.delaysTrue delays⟩

end Sys2Proof.Machine

open Sys2Proof Sys2Proof.Machine Sys2Proof.Safety

/-- Settles O58: the phases by `advance_moves`, the latches and the delays by the step's history. -/
theorem stepKeepsInvariant : Obligations.StepKeepsInvariant := by
  unfold Obligations.StepKeepsInvariant
  exact fun s t h run => step_inv h run

/-- Settles O59. -/
theorem accessesAreCounted : Obligations.AccessesAreCounted := by
  unfold Obligations.AccessesAreCounted
  intro s t run
  obtain ⟨qs, cs, seg, hist, -⟩ := step_history run
  exact ⟨seg, hist.events, hist.accesses, hist.answers⟩

/-- Settles O60. -/
theorem stepNeverWritesRoms : Obligations.StepNeverWritesRoms := by
  unfold Obligations.StepNeverWritesRoms
  intro s t run
  obtain ⟨qs, cs, seg, hist, -⟩ := step_history run
  have cfg : t.cfg = s.cfg := hist.cfg
  exact ⟨by rw [cfg], by rw [cfg], cfg, seg, hist.events.symm⟩

/-- Settles O52. -/
theorem tickMakesOneEvent : Obligations.TickMakesOneEvent := by
  unfold Obligations.TickMakesOneEvent
  refine ⟨fun s => ?_, fun s t none_placed run => ?_⟩
  · obtain ⟨seg, hist, short⟩ := tick_history s
    exact ⟨seg, hist.events, short⟩
  · obtain ⟨qs, cs, seg, hist, short⟩ := step_history run
    exact ⟨seg, hist.events, short none_placed⟩

/-- Settles O53. -/
theorem resultWrittenAtReturnToIdle : Obligations.ResultWrittenAtReturnToIdle := by
  unfold Obligations.ResultWrittenAtReturnToIdle
  intro s h written
  have unwritten : (advance s).result = s.result → (advance s).resultKnown = s.resultKnown →
      s.phase ≠ .idle ∧ (advance s).phase = .idle ∧ (advance s).resultKnown = true := fun result resultKnown =>
    written.elim (absurd result) (absurd resultKnown)
  cases (advance_moves h.sequenced).1 with
  | stays same => exact unwritten same.result same.resultKnown
  | accepts _ _ _ _ _ result resultKnown | transfers _ _ result resultKnown | stops _ _ result resultKnown =>
    exact unwritten result resultKnown
  | finishes before after _ resultKnown => exact ⟨by rw [before]; exact Phase.noConfusion, after, resultKnown⟩
  | aborts before after _ resultKnown => exact ⟨before, after, resultKnown⟩

/-- Settles O54. -/
theorem phaseMoves : Obligations.PhaseMoves := by
  unfold Obligations.PhaseMoves
  intro s h
  cases (advance_moves h.sequenced).1 with
  | stays same => exact .inl same.phase
  | accepts q before after presented byteCnt => exact .inr (.inl ⟨before, after, ⟨q, presented⟩, byteCnt⟩)
  | transfers before after => exact .inr (.inr (.inl ⟨before, after⟩))
  | stops before after => exact .inr (.inr (.inr (.inl ⟨before, after⟩)))
  | finishes before after result resultKnown =>
    exact .inr (.inr (.inr (.inr (.inl ⟨before, after, result, resultKnown⟩))))
  | aborts before after result resultKnown todo =>
    exact .inr (.inr (.inr (.inr (.inr ⟨before, after, result, resultKnown, todo⟩))))

/-- Settles O55: busy is the phase, and an operation's reply and `RESULT` are written together at its end. -/
theorem statusView : Obligations.StatusView := by
  unfold Obligations.StatusView
  refine ⟨rfl, fun s h => ?_, fun i s t opens ready run => ?_⟩
  · rw [Ne, sequenced_todo h.sequenced]
    cases phase : s.phase <;> simp [Machine.statusView, busy, phase]
  · obtain ⟨cmd, ds, bytes⟩ := exists_wireBytes opens
    obtain ⟨ends, phase, resultKnown, -⟩ := exec_ready bytes ready run
    refine ⟨by simp [Machine.statusView, busy, phase, resultKnown], ?_⟩
    cases ends with
    | ok _ _ _ _ _ result reply | fault _ _ _ _ _ result reply | timeout _ _ _ _ _ _ _ result reply =>
      simp [result, reply, resultCode, resultInfo]

/-- Settles O57. -/
theorem invariantAtReset : Obligations.InvariantAtReset := by
  unfold Obligations.InvariantAtReset
  exact ⟨rfl, ⟨rfl, rfl⟩, fun _ none => by cases none⟩

/-- Settles O56. -/
theorem resetLeaves : Obligations.ResetLeaves := by
  unfold Obligations.ResetLeaves
  exact ⟨rfl, rfl, rfl, rfl, rfl, rfl, rfl, rfl, rfl, rfl, rfl, rfl, rfl, step_quiet _ rfl rfl rfl⟩

/-- Settles O4. -/
theorem stepRunsDecodedInstruction : Obligations.StepRunsDecodedInstruction := by
  unfold Obligations.StepRunsDecodedInstruction
  exact fun s c cs i empty placed decoded => step_call empty placed decoded

/-- Settles O5: the placed word stands first, and nothing is in progress. -/
theorem placedWordRunsNext : Obligations.PlacedWordRunsNext := by
  unfold Obligations.PlacedWordRunsNext
  intro s nbits w i word
  rw [step_call (s := s.withFetchWord nbits w) rfl rfl (decode_tableCall word)]
  rfl

/-- Settles O6. -/
theorem stepOtherwise : Obligations.StepOtherwise := by
  unfold Obligations.StepOtherwise
  intro s
  refine ⟨fun busy => ?_, step_quiet s, fun c cs e empty placed rejected => step_malformed empty placed rejected⟩
  rw [step_advance (.inl busy), advance_tick s busy]

/-- Settles O7. -/
theorem stepAdvancesRequests : Obligations.StepAdvancesRequests := by
  unfold Obligations.StepAdvancesRequests
  intro s q qs idle empty none_placed waiting
  rw [step_advance (.inr none_placed), advance_present s q qs empty waiting]
  refine ⟨fun selects => ?_, fun refused => ?_⟩
  · obtain ⟨cmd, body, selected, -⟩ := codeOf_some (s := (s.setRequests qs).accept q.op q.operands) selects
    rw [present_accepted (s := s.setRequests qs) idle selected]
    exact ⟨_, by simp [codeTransaction, codeStart], rfl⟩
  · rw [present_refused (r := q.operands) (s := s.setRequests qs) (codeOf_none refused)]
    rfl

end

section
/-! The two grains agree: the lines of each part of an operation, worked off one a tick, do what that part does
whole (20_memory.md R38, D23). -/

namespace Sys2Proof.Machine

open Sys2Proof.Safety

/-! Code and flow. -/

/-- Where a part of an operation in progress leaves the machine: in its last state, aborted if it raised. -/
def Flow.landed : Flow Unit → State
  | .done _ t => t
  | .raised e t => t.abort e

/-- The lines `code`, worked off one a tick while an operation is in progress, do what `x` does whole. -/
structure Implements (code : List Micro) (x : State → Flow Unit) : Prop where
  reaches : ∀ s rest, s.todo = code ++ rest → s.phase ≠ .idle → ∃ n, ticks n s = (x (s.setTodo rest)).landed
  commutes : ∀ ms, Commutes (fun s => s.setTodo ms) x
  todo : ∀ s, (x s).last.todo = s.todo
  busy : ∀ s, s.phase ≠ .idle → (x s).last.phase ≠ .idle

theorem unseen_setTodo (ms : List Micro) : Unseen fun s => s.setTodo ms := by
  constructor <;> intros <;> rfl

/-- What is left after the lines plays no part in them. -/
theorem Implements.reaches_with {code rest : List Micro} {x : State → Flow Unit} (h : Implements code x) {s : State}
    (todo : s.todo = code ++ rest) (busy : s.phase ≠ .idle) (ms : List Micro) :
    ∃ n, ticks n s = ((x (s.setTodo ms)).map fun t => t.setTodo rest).landed := by
  obtain ⟨n, reached⟩ := h.reaches s rest todo busy
  refine ⟨n, reached.trans (congrArg Flow.landed ?_)⟩
  exact h.commutes rest (s.setTodo ms)

theorem restore_todo {t : State} {rest : List Micro} (left : t.todo = rest) (ms : List Micro) :
    (t.setTodo ms).setTodo rest = t := congrArg t.setTodo left.symm

/-- After the lines of `x` come those of `y`, unless `x` raised. -/
theorem Implements.reaches_bind {code more rest : List Micro} {x y : State → Flow Unit} (h : Implements code x) {s : State}
    (todo : s.todo = code ++ more) (busy : s.phase ≠ .idle)
    (later : ∀ t, x (s.setTodo rest) = .done () t → ∃ n, ticks n (t.setTodo more) = (y t).landed) :
    ∃ n, ticks n s = ((x (s.setTodo rest)).bind fun _ t => y t).landed := by
  obtain ⟨n, reached⟩ := h.reaches_with todo busy rest
  cases ran : x (s.setTodo rest) with
  | raised e t =>
    rw [ran] at reached
    exact ⟨n, reached⟩
  | done u t =>
    rw [ran] at reached
    obtain ⟨m, reached'⟩ := later t ran
    exact ⟨n + m, by rw [ticks_add, reached, bind_done]; exact reached'⟩

theorem Implements.bind {a b : List Micro} {x y : State → Flow Unit} (hx : Implements a x) (hy : Implements b y) :
    Implements (a ++ b) fun s => (x s).bind fun _ s => y s where
  reaches s rest todo busy := by
    refine hx.reaches_bind (todo.trans (List.append_assoc a b rest)) busy fun t ran => ?_
    have left := hx.todo (s.setTodo rest)
    have still_busy := hx.busy (s.setTodo rest) busy
    rw [ran] at left still_busy
    obtain ⟨n, reached⟩ := hy.reaches (t.setTodo (b ++ rest)) rest rfl still_busy
    exact ⟨n, by rw [reached, restore_todo (t := t) (rest := rest) left]⟩
  commutes ms := (hx.commutes ms).bind fun _ => hy.commutes ms
  todo s := by
    have first := hx.todo s
    cases ran : x s with
    | raised e t => rw [ran] at first; exact first
    | done u t => rw [ran] at first; exact (hy.todo t).trans first
  busy s busy := by
    have first := hx.busy s busy
    cases ran : x s with
    | raised e t => rw [ran] at first; exact first
    | done u t => rw [ran] at first; exact hy.busy t first

theorem implements_nil : Implements [] (Flow.done ()) where
  reaches s _ todo _ := ⟨0, congrArg s.setTodo todo⟩
  commutes _ := Commutes.done
  todo _ := rfl
  busy _ busy := busy

/-- One line that leaves what is left to do alone. -/
theorem implements_micro {m : Micro} (commutes : ∀ ms, Commutes (fun s => s.setTodo ms) (micro m))
    (todo : ∀ s, (micro m s).last.todo = s.todo) (busy : ∀ s, s.phase ≠ .idle → (micro m s).last.phase ≠ .idle) :
    Implements [m] (micro m) where
  reaches s rest left inProgress := by
    refine ⟨1, ?_⟩
    have still_busy := busy (s.setTodo rest) inProgress
    rw [ticks_succ, ticks_zero]
    cases ran : micro m (s.setTodo rest) with
    | done u t => exact tick_of_done left ran
    | raised e t => rw [ran] at still_busy; exact tick_of_raised left ran still_busy
  commutes := commutes
  todo := todo
  busy := busy

/-- A line that is `Steady`. -/
theorem implements_steady {m : Micro} (commutes : ∀ ms, Commutes (fun s => s.setTodo ms) (micro m))
    (steady : ∀ s, Steady s (micro m s)) : Implements [m] (micro m) :=
  implements_micro commutes (fun s => (steady s).2.todo) fun s busy => by rw [(steady s).2.phase]; exact busy

/-- A register transfer. -/
theorem implements_transfer {m : Micro} (g : State → State) (eq : ∀ s, micro m s = .done () (g s))
    (commutes : ∀ s ms, g (s.setTodo ms) = (g s).setTodo ms) (todo : ∀ s, (g s).todo = s.todo)
    (busy : ∀ s, s.phase ≠ .idle → (g s).phase ≠ .idle) : Implements [m] (micro m) :=
  implements_micro (fun ms s => by rw [eq, eq, map_done, commutes]) (fun s => by rw [eq]; exact todo s)
    fun s h => by rw [eq]; exact busy s h

/-! XPORT. -/

theorem implements_clk (b : Level) : Implements [.clk b] (clkSet b) :=
  implements_steady (m := .clk b) (fun ms => clkSet_commutes (unseen_setTodo ms) b) (clkSet_steady b)

theorem implements_dio (b : Level) : Implements [.dio b] (dioSet b) :=
  implements_steady (m := .dio b) (fun ms => dioSet_commutes (unseen_setTodo ms) b) (dioSet_steady b)

theorem implements_dioShreg : Implements [.dioShreg] fun s => dioSet (s.shreg.getLsbD 0) s :=
  implements_steady (m := .dioShreg) (fun ms s => dioSet_commutes (unseen_setTodo ms) _ s) fun s => dioSet_steady _ s

theorem implements_wait : Implements [.wait] fun s => .done () (delay s) :=
  implements_transfer (m := .wait) delay (fun _ => rfl) (fun _ _ => rfl) (fun _ => rfl) fun _ h => h

theorem implements_sendBit (b : Level) : Implements (codeSendBit b) (sendBit b) :=
  (implements_clk false).bind ((implements_dio b).bind ((implements_clk true).bind implements_wait))

theorem implements_start : Implements codeStart startCondition :=
  (implements_clk false).bind ((implements_dio true).bind ((implements_clk true).bind
    (implements_wait.bind (implements_dio false))))

theorem implements_stop : Implements codeStop stopCondition :=
  (implements_clk false).bind ((implements_dio false).bind ((implements_clk true).bind
    (implements_wait.bind ((implements_dio true).bind implements_wait))))

/-- One turn of the data loop. -/
def shiftOne (s : State) : Flow Unit := (sendBit (s.shreg.getLsbD 0) s).bind fun _ s => .done () s.shiftByte

theorem shiftOut_succ (n : Nat) (s : State) : shiftOut (n + 1) s = (shiftOne s).bind fun _ s => shiftOut n s := by
  rw [shiftOut, shiftOne, bind_assoc]
  rfl

/-- The drive of `SHREG[0]` finds `SHREG` as it was before the fall of CLK. -/
theorem shiftOne_eq (s : State) :
    shiftOne s = (clkSet false s).bind fun _ s => (dioSet (s.shreg.getLsbD 0) s).bind fun _ s =>
      (clkSet true s).bind fun _ s => (Flow.done () (delay s)).bind fun _ s => .done () s.shiftByte := by
  have still := clkSet_still false s
  unfold shiftOne sendBit
  cases fell : clkSet false s with
  | raised e t => rfl
  | done u t =>
    have kept : t.shreg = s.shreg := (still.1 t fell).shreg
    simp only [bind_done, bind_assoc, kept]

theorem implements_shiftOne : Implements codeDataBit shiftOne := by
  rw [show shiftOne = _ from funext shiftOne_eq]
  exact (implements_clk false).bind (implements_dioShreg.bind ((implements_clk true).bind (implements_wait.bind
    (implements_transfer (m := .shift) State.shiftByte (fun _ => rfl) (fun _ _ => rfl) (fun _ => rfl) fun _ h => h))))

theorem implements_shiftOut (n : Nat) : Implements (List.replicate n codeDataBit).flatten (shiftOut n) := by
  induction n with
  | zero => exact implements_nil
  | succ n ih =>
    rw [show shiftOut (n + 1) = _ from funext (shiftOut_succ n), List.replicate_succ, List.flatten_cons]
    exact implements_shiftOne.bind ih

/-- The poll loop with `n` iterations of its budget left (R86). -/
theorem poll_reaches (n : Nat) {s : State} {rest : List Micro} (budget : s.pollCnt.toNat + n = 255)
    (todo : s.todo = .poll :: rest) (busy : s.phase ≠ .idle) :
    ∃ m, ticks m s = (pollWait n (s.setTodo rest)).landed := by
  induction n generalizing s with
  | zero =>
    have used : ¬ (s.setTodo rest).pollCnt.toNat < (s.setTodo rest).cfg.ackPolls := by
      rw [cfg_ackPolls, setTodo_pollCnt]; omega
    have ran : micro .poll (s.setTodo rest) = .raised .ackTimeout (s.setTodo rest) := by simp only [micro, if_neg used]
    exact ⟨1, tick_of_raised todo ran busy⟩
  | succ n ih =>
    have unused : (s.setTodo rest).pollCnt.toNat < (s.setTodo rest).cfg.ackPolls := by
      rw [cfg_ackPolls, setTodo_pollCnt]; omega
    rcases dioRead_cases (s.setTodo rest) with ⟨r, t, read, -, -, same, shift⟩ | ⟨info, t, read, -, -, same, -⟩
    · cases r with
      | false =>
        have ran : micro .poll (s.setTodo rest) = .done () t := by simp only [micro, if_pos unused, read, bind_done]
        exact ⟨1, by rw [pollWait, read]; exact tick_of_done todo ran⟩
      | true =>
        have ran : micro .poll (s.setTodo rest) = .done () (t.setTodo (.wait :: .pollBump :: .poll :: rest)) := by
          simp only [micro, if_pos unused, read, bind_done, same.todo, setTodo_todo]
        have bumped : (t.pollCnt + 1#8).toNat + n = 255 := by
          rw [shift.pollCnt, setTodo_pollCnt, BitVec.toNat_add]
          simp only [BitVec.toNat_ofNat]
          omega
        obtain ⟨m, reached⟩ := ih (s := ((delay t).setPollCnt (t.pollCnt + 1#8)).setTodo (.poll :: rest)) bumped rfl
          (same.phase ▸ busy)
        refine ⟨m + 3, ?_⟩
        rw [restore_todo (t := (delay t).setPollCnt (t.pollCnt + 1#8)) (rest := rest) same.todo] at reached
        rw [pollWait, read, Nat.add_comm m 3, ticks_add, ticks_succ, tick_of_done todo ran]
        exact reached
    · have ran : micro .poll (s.setTodo rest) = .raised (.lineFault info) t := by
        simp only [micro, if_pos unused, read, bind_raised]
      exact ⟨1, by rw [pollWait, read]; exact tick_of_raised todo ran (same.phase ▸ busy)⟩

theorem pollWait_keeps (n : Nat) (s : State) :
    (pollWait n s).last.todo = s.todo ∧ (pollWait n s).last.phase = s.phase := by
  rcases pollWait_cases n s with ⟨k, t, -, done, -, same, -⟩ | ⟨k, info, t, -, raised, cut, -⟩ |
    ⟨t, raised, -, same, -⟩
  · rw [done]; exact ⟨same.todo, same.phase⟩
  · rw [raised]; exact ⟨cut.same.todo, cut.same.phase⟩
  · rw [raised]; exact ⟨same.todo, same.phase⟩

theorem implements_pollWait :
    Implements [.pollReset, .poll] fun s => pollWait s.cfg.ackPolls (s.setPollCnt 0#8) where
  reaches s rest todo busy := by
    obtain ⟨m, reached⟩ := poll_reaches 255 (s := (s.setTodo (.poll :: rest)).setPollCnt 0#8) (rest := rest)
      rfl rfl busy
    refine ⟨m + 1, ?_⟩
    rw [ticks_succ, tick_of_done todo rfl, cfg_ackPolls]
    exact reached
  commutes ms s := by
    simp only [cfg_ackPolls]
    exact pollWait_commutes (unseen_setTodo ms) 255 (s.setPollCnt 0#8)
  todo s := (pollWait_keeps _ (s.setPollCnt 0#8)).1
  busy s busy := by
    rw [(pollWait_keeps _ (s.setPollCnt 0#8)).2]
    exact busy

theorem implements_sendByte (v : Byte) : Implements (codeSendByte v) (sendByte v) := by
  have load : Implements [.load v] fun s => .done () (s.loadByte v) :=
    implements_transfer (m := .load v) (fun s => s.loadByte v) (fun _ => rfl) (fun _ _ => rfl) (fun _ => rfl)
      fun _ h => h
  have whole := load.bind ((implements_shiftOut 8).bind ((implements_sendBit true).bind implements_pollWait))
  rwa [← List.append_assoc (List.replicate 8 codeDataBit).flatten] at whole

/-! The parts of a transaction. -/

theorem implements_sendCommand (c : Byte) : Implements (codeSendByte c ++ [.firstByte]) (sendCommand c) :=
  (implements_sendByte c).bind (implements_transfer (m := .firstByte) (fun s => s.setByteCnt 1) (fun _ => rfl)
    (fun _ _ => rfl) (fun _ => rfl) fun _ h => h)

theorem implements_sendData (d : Byte) : Implements (codeSendByte d ++ [.nextByte]) (sendData d) :=
  (implements_sendByte d).bind (implements_transfer (m := .nextByte) (fun s => s.setByteCnt (s.byteCnt + 1))
    (fun _ => rfl) (fun _ _ => rfl) (fun _ => rfl) fun _ h => h)

theorem implements_sendOwn (ds : List Byte) : Implements (codeOwn ds) (sendOwn ds) := by
  induction ds with
  | nil => exact implements_nil
  | cons d ds ih => exact (implements_sendData d).bind ih

theorem sendPayload_setTodo (t : Translate) (es : List Byte) (ms : List Micro) :
    Commutes (fun s => s.setTodo ms) (sendPayload t es) := by
  induction es with
  | nil => exact Commutes.done
  | cons e es ih =>
    have sent : Commutes (fun s => s.setTodo ms) fun s => sendData (translate t s e) (s.takeElem es) := fun s => by
      have same : translate t (s.setTodo ms) e = translate t s e := translate_congr (setTodo_cfg s ms) t e
      change sendData (translate t (s.setTodo ms) e) ((s.takeElem es).setTodo ms) = _
      rw [same]
      exact sendData_commutes (unseen_setTodo ms) _ (s.takeElem es)
    exact sent.bind fun _ => ih

/-- The payload loop takes its elements one turn after the other (R42, R107). -/
theorem elem_reaches (t : Translate) (es : List Byte) {s : State} {rest : List Micro} (payload : s.payload = es)
    (todo : s.todo = .elem t :: rest) (busy : s.phase ≠ .idle) :
    ∃ n, ticks n s = (sendPayload t es (s.setTodo rest)).landed := by
  induction es generalizing s with
  | nil =>
    have ran : micro (.elem t) (s.setTodo rest) = .done () (s.setTodo rest) := by
      simp only [micro, setTodo_payload, payload]
    exact ⟨1, tick_of_done todo ran⟩
  | cons e es ih =>
    have ran : micro (.elem t) (s.setTodo rest) = .done () ((s.takeElem es).setTodo
        ((codeSendByte (translate t (s.setTodo rest) e) ++ [Micro.nextByte]) ++ .elem t :: rest)) := by
      simp only [micro, setTodo_payload, payload, List.append_assoc, List.cons_append, List.nil_append]
      rfl
    obtain ⟨n, reached⟩ := (implements_sendData (translate t (s.setTodo rest) e)).reaches_bind (rest := rest)
      (s := (s.takeElem es).setTodo _) (more := .elem t :: rest) (y := sendPayload t es) rfl busy fun w sent => by
        rcases sendData_steady (translate t (s.setTodo rest) e) ((s.takeElem es).setTodo rest) with
          ⟨u, seg, done, -, kept⟩ | ⟨err, u, seg, raised, -, -⟩
        · cases sent.symm.trans done
          obtain ⟨m, reached⟩ := ih
            (s := (u.setByteCnt (s.byteCnt + 1)).setTodo (.elem t :: rest)) kept.payload rfl (kept.phase ▸ busy)
          rw [restore_todo (t := u.setByteCnt (s.byteCnt + 1)) (rest := rest) kept.todo] at reached
          exact ⟨m, reached⟩
        · cases sent.symm.trans raised
    refine ⟨n + 1, ?_⟩
    rw [ticks_succ, tick_of_done todo ran]
    exact reached

theorem implements_payload (t : Translate) : Implements [.elem t] fun s => sendPayload t s.payload s where
  reaches s rest todo busy := elem_reaches t s.payload rfl todo busy
  commutes ms s := sendPayload_setTodo t s.payload ms s
  todo s := (sendPayload_keeps t s.payload s).2.todo
  busy s busy := by
    rw [(sendPayload_keeps t s.payload s).2.phase]
    exact busy

theorem implements_phase {p : Phase} (busy : p ≠ .idle) : Implements [.phase p] fun s => .done () (s.setPhase p) :=
  implements_transfer (m := .phase p) (fun s => s.setPhase p) (fun _ => rfl) (fun _ _ => rfl) (fun _ => rfl)
    fun _ _ => busy

/-- The last line of an operation ends it, if nothing aborted it before (R100, R124). -/
theorem tick_landed {x : Flow Unit} (empty : x.last.todo = []) :
    tick ((x.map fun t => t.setTodo [.finish]).landed) = closeFrame x := by
  cases x with
  | raised e t => exact tick_idle (t.abort e) rfl
  | done u t =>
    exact tick_of_done (s := t.setTodo [.finish]) rfl (congrArg (micro .finish) (restore_todo empty [.finish]))

/-- An accepted operation, ticked to its end, is the whole transaction (R100). -/
theorem transaction_reaches {cmd : Byte} {code : List Micro} {body : State → Flow Unit} (h : Implements code body)
    {s : State} (empty : s.todo = []) :
    ∃ n, ticks n (((s.setPhase .start).setByteCnt 0).setTodo (codeTransaction cmd code))
      = transaction cmd body s := by
  have lines := implements_start.bind ((implements_phase (p := .transfer) (by decide)).bind
    ((implements_sendCommand cmd).bind (h.bind ((implements_phase (p := .stop) (by decide)).bind implements_stop))))
  obtain ⟨n, reached⟩ := lines.reaches_with
    (s := ((s.setPhase .start).setByteCnt 0).setTodo (codeTransaction cmd code)) (rest := [.finish])
    (by simp [codeTransaction]) (by simp) []
  rw [restore_todo (t := (s.setPhase .start).setByteCnt 0) empty] at reached
  refine ⟨n + 1, ?_⟩
  have left := (lines.todo ((s.setPhase .start).setByteCnt 0)).trans empty
  rw [ticks_add, reached, ticks_succ, ticks_zero, tick_landed left]
  rfl

/-- A presented request either starts its operation, or is turned away as `exec` turns it away (R60, R62, R77). -/
theorem present_reaches {op : BitVec 3} {r : Request} {i : Instr} {s : State}
    (selected : decodeRequest (op.setWidth 8) r = .instr i) (idle : s.phase = .idle) (empty : s.todo = []) :
    ∃ n, exec i s = .next (ticks n (present op r s)) := by
  have started {cmd : Byte} {code : List Micro} {body : State → Flow Unit} (h : Implements code body)
      (coded : codeOf (s.accept op r) = some (codeTransaction cmd code))
      (run : exec i s = .next (transaction cmd body (s.accept op r))) :
      ∃ n, exec i s = .next (ticks n (present op r s)) := by
    obtain ⟨n, reached⟩ := transaction_reaches h (cmd := cmd) (s := s.accept op r) empty
    exact ⟨n, by rw [present_accepted idle coded, reached, run]⟩
  have refused (coded : codeOf (s.accept op r) = none) (run : exec i s = .next s.turnAway) :
      ∃ n, exec i s = .next (ticks n (present op r s)) :=
    ⟨0, by rw [present_refused coded, run]; rfl⟩
  have codes : ∀ op : BitVec 3,
      op = 0#3 ∨ op = 1#3 ∨ op = 2#3 ∨ op = 3#3 ∨ op = 4#3 ∨ op = 5#3 ∨ op = 6#3 ∨ op = 7#3 := by decide
  rcases codes op with rfl | rfl | rfl | rfl | rfl | rfl | rfl | rfl <;> cases selected
  · exact started (implements_sendOwn []) rfl (congrArg _ (serve_idle _ _ _ s idle))
  · exact started (implements_sendOwn _) rfl (congrArg _ (serve_idle _ _ _ s idle))
  · exact started (implements_payload .raw) rfl (congrArg _ (serve_idle _ _ _ s idle))
  · exact started (implements_payload .hex) rfl (congrArg _ (serve_idle _ _ _ s idle))
  · cases hasChar : s.cfg.hasChar with
    | true =>
      exact started (implements_payload .char) (if_pos hasChar)
        (congrArg _ ((if_pos hasChar).trans (serve_idle _ _ _ s idle)))
    | false =>
      refine refused (if_neg ?_) (exec_writeChars_refused hasChar r)
      exact Bool.eq_false_iff.1 hasChar
  · exact started (implements_sendOwn []) rfl (congrArg _ (serve_idle _ _ _ s idle))
  · exact refused rfl rfl
  · exact refused rfl rfl

/-! The history of a run. -/

theorem ticks_history (n : Nat) (s : State) : ∃ seg, History s (ticks n s) seg ∧ seg.length ≤ n := by
  induction n generalizing s with
  | zero => exact ⟨[], History.refl s, by simp⟩
  | succ n ih =>
    obtain ⟨first, hist, short⟩ := tick_history s
    obtain ⟨later, hist', short'⟩ := ih (tick s)
    exact ⟨first ++ later, hist.trans hist', by rw [List.length_append]; omega⟩

/-- While an operation is in progress a step is a tick. -/
theorem runs_ticks (n : Nat) {s : State} (busy : ∀ m < n, (ticks m s).todo ≠ []) : runs n s = some (ticks n s) := by
  induction n generalizing s with
  | zero => rfl
  | succ n ih =>
    have first : s.todo ≠ [] := busy 0 (Nat.succ_pos n)
    rw [runs, step_advance (.inl first), advance_tick s first, ticks_succ]
    exact ih fun m before => busy (m + 1) (Nat.succ_lt_succ before)

/-- The first tick after which nothing is left to do. -/
theorem exists_first_end {n : Nat} {s : State} (ended : (ticks n s).todo = []) :
    ∃ m, ticks m s = ticks n s ∧ ∀ k < m, (ticks k s).todo ≠ [] := by
  have some_end : ∃ m, (ticks m s).todo = [] := ⟨n, ended⟩
  refine ⟨Nat.find some_end, ?_, fun k before => Nat.find_min some_end before⟩
  obtain ⟨more, split⟩ := Nat.exists_eq_add_of_le (Nat.find_min' some_end ended)
  rw [split, ticks_add, ticks_idle more _ (Nat.find_spec some_end)]

theorem requestOf_of_decodeRequest {op : Byte} {r : Request} {i : Instr} (selected : decodeRequest op r = .instr i) :
    requestOf i = some r := by
  unfold decodeRequest at selected
  split_ifs at selected <;> cases selected <;> rfl

end Sys2Proof.Machine

open Sys2Proof Sys2Proof.Machine Sys2Proof.Safety

/-- Settles O51: the lines of an operation do what the operation does whole, part by part. -/
theorem execIsTicksToTheEnd : Obligations.ExecIsTicksToTheEnd := by
  unfold Obligations.ExecIsTicksToTheEnd
  intro op r i s selected idle empty
  obtain ⟨n, run⟩ := present_reaches selected idle empty
  refine ⟨n, _, run, rfl, (request_idle (requestOf_of_decodeRequest selected) idle empty run).2, fun m le => ?_⟩
  obtain ⟨more, rfl⟩ := Nat.exists_eq_add_of_le le
  obtain ⟨later, hist, -⟩ := ticks_history more (ticks m (present op r s))
  exact ⟨later, by rw [ticks_add]; exact hist.events⟩

/-- Settles O8: the step that presents the request, and then the ticks of O51 up to the last one that finds something
to do. -/
theorem requestRunsToExec : Obligations.RequestRunsToExec := by
  unfold Obligations.RequestRunsToExec
  intro s q qs i idle empty none_placed waiting selected
  obtain ⟨n, run⟩ := present_reaches (s := s.setRequests qs) selected idle empty
  have ended := (request_idle (s := s.setRequests qs) (requestOf_of_decodeRequest selected) idle empty run).2
  obtain ⟨m, last, busy⟩ := exists_first_end ended
  have presented (k : Nat) (le : k ≤ m) :
      runs (k + 1) s = some (ticks k (present q.op q.operands (s.setRequests qs))) := by
    rw [runs, step_advance (.inr none_placed), advance_present s q qs empty waiting]
    exact runs_ticks k fun j before => busy j (before.trans_le le)
  have begun := present_history q.op q.operands (s.setRequests qs)
  rw [← last] at run ended
  refine ⟨m + 1, _, run, presented m le_rfl, ended, fun k le => ?_⟩
  cases k with
  | zero =>
    obtain ⟨seg, hist, -⟩ := ticks_history m (present q.op q.operands (s.setRequests qs))
    exact ⟨s, rfl, ⟨_, ((begun.trans hist).events).symm⟩, by omega⟩
  | succ k =>
    have le : k ≤ m := Nat.le_of_succ_le_succ le
    obtain ⟨more, rfl⟩ := Nat.exists_eq_add_of_le le
    obtain ⟨seg, hist, short⟩ := ticks_history k (present q.op q.operands (s.setRequests qs))
    obtain ⟨later, hist', -⟩ := ticks_history more (ticks k (present q.op q.operands (s.setRequests qs)))
    refine ⟨_, presented k le, ⟨later, ?_⟩, ?_⟩
    · rw [ticks_add]; exact hist'.events.symm
    · have grown := congrArg List.length (begun.trans hist).events
      simp at grown
      omega

end
